-- ==== Sys2Proof/Word.lean ====
section
/-!
DEFINITION. The word types of the FCT: bytes of a frame (00_scope.md R3, 20_memory.md R50), the 64-bit request
word (30_encoding.md R83), the 32-bit tick counts (`P_TW`, 00_scope.md R2, 92_eei_decisions.md D4) and the chunk, a
non-empty byte sequence (41_transport.md R130, D14).
-/

namespace Sys2Proof

/-- A byte, unsigned, 0 to 255 (R3, R50). -/
abbrev Byte := BitVec 8

/-- The host's request word (R83). -/
abbrev ReqWord := BitVec 64

/-- A count of ticks, `P_TW = 32` bits wide (R2, R28). -/
abbrev Ticks := BitVec 32

/-- A chunk: a non-empty byte sequence the line delivers in one piece (R130, D14). The first byte stands apart, so
that an empty chunk cannot be built. -/
structure Chunk where
  first : Byte
  rest : List Byte
  deriving DecidableEq, Repr

/-- The bytes of a chunk in the order they had on the line (R51). -/
def Chunk.bytes (c : Chunk) : List Byte := c.first :: c.rest

end Sys2Proof
end

