-- ==== Sys2Proof/Syntax.lean ====
section
/-!
DEFINITION. The instructions: one constructor per row of spec/opcode_table.json. Six are host requests (30_encoding.md
R84), five are the wire commands the frames carry (R75 to R79). `Code` is what an instruction is encoded as.
-/

namespace Sys2Proof

/-- An instruction of the opcode table. A wire command carries its SUM byte as well, because the table's mask leaves SUM
free (R87); `WellFormed` says which SUM is right (R72). -/
inductive Instr where
  /-- ENCODE a, c (R101). -/
  | encode (a c : Byte)
  /-- ENCODE_EXT a, c, n (R102). -/
  | encodeExt (a c n : Byte)
  /-- DECODE B, any byte sequence (R103). -/
  | decode (bs : List Byte)
  /-- SEND (R131). -/
  | send
  /-- AWAIT_SINGLE t (R135). -/
  | awaitSingle (t : Ticks)
  /-- AWAIT_ALL t (R138). -/
  | awaitAll (t : Ticks)
  /-- GET_DOOR_STATUS, basic frame, CMD 0x30 (R75). -/
  | getDoorStatus (addr sum : Byte)
  /-- UNLOCK, basic frame, CMD 0x31 (R76). -/
  | unlock (addr sum : Byte)
  /-- GET_BUS_STATUS, basic frame, CMD 0x32 (R77). -/
  | getBusStatus (addr sum : Byte)
  /-- BROADCAST_RECRUIT, extended frame, CMD 0x80 (R78). -/
  | broadcastRecruit (addr newaddr sum : Byte)
  /-- ASSIGN_NEW_ADDRESS, extended frame, CMD 0x81 (R79). -/
  | assignNewAddress (addr newaddr sum : Byte)
  deriving DecidableEq, Repr

/-- The two encoded forms: a request word with DECODE's byte sequence beside it (R83), or a frame's bytes in
transmission order (R51, R70, R71). -/
inductive Code where
  | request (w : ReqWord) (bs : List Byte)
  | frame (bs : List Byte)
  deriving DecidableEq, Repr

end Sys2Proof
end

