-- ==== Sys2Proof/Machine/Operands.lean ====
section
/-!
DEFINITION. Operand forms: the fields of the request word (30_encoding.md R83), the frame forms (R70, R71, R74), the
checksum over a frame's bytes (40_codec.md R100), and the reading of a table number as bytes (R87).
-/

namespace Sys2Proof.Machine

/-- `OP`, bits 3:0 (R83). -/
def reqOp (w : ReqWord) : BitVec 4 := w.extractLsb' 0 4
/-- `A`, bits 15:8 (R83). -/
def reqA (w : ReqWord) : Byte := w.extractLsb' 8 8
/-- `C`, bits 23:16 (R83). -/
def reqC (w : ReqWord) : Byte := w.extractLsb' 16 8
/-- `N`, bits 31:24 (R83). -/
def reqN (w : ReqWord) : Byte := w.extractLsb' 24 8
/-- `T`, bits 63:32 (R83). -/
def reqT (w : ReqWord) : Ticks := w.extractLsb' 32 32

/-- The request word with the given fields and zero in the reserved bits 7:4 (R83). -/
def reqWord (t : Ticks) (n c a : Byte) (op : BitVec 4) : ReqWord :=
  t ++ n ++ c ++ a ++ (0#4) ++ op

/-- The START marker (R70). -/
abbrev startMarker : Byte := 0x02#8
/-- The END marker (R70). -/
abbrev endMarker : Byte := 0x03#8

/-- `sum8`: the sum of the bytes as natural numbers, modulo 256 (R100, R5). -/
def sum8 (bs : List Byte) : Byte := BitVec.ofNat 8 (bs.map BitVec.toNat).sum

/-- A frame body with its checksum appended: the sum of START through END, SUM itself left out (R72). -/
def withSum (body : List Byte) : List Byte := body ++ [sum8 body]

/-- The basic frame, 5 bytes (R70, R101). -/
def basicFrame (a c : Byte) : List Byte := withSum [startMarker, a, c, endMarker]

/-- The extended frame, 9 bytes, reserved bytes zero (R71, R81, R102). -/
def extFrame (a c n : Byte) : List Byte :=
  withSum [startMarker, a, c, n, 0x00#8, 0x00#8, 0x00#8, endMarker]

/-- The status reply, 9 bytes, the status field at indexes 3 to 6 (R74, D8). -/
def statusReply (a c byte0 byte1 byte2 byte3 : Byte) : List Byte :=
  withSum [startMarker, a, c, byte0, byte1, byte2, byte3, endMarker]

/-- The bytes of a basic frame with a given SUM byte, as one chunk (R70). -/
def basicChunk (a c sum : Byte) : Chunk := ⟨startMarker, [a, c, endMarker, sum]⟩

/-- The bytes of an extended frame with a given SUM byte, as one chunk (R71). -/
def extChunk (a c n sum : Byte) : Chunk :=
  ⟨startMarker, [a, c, n, 0x00#8, 0x00#8, 0x00#8, endMarker, sum]⟩

/-- The `n` bytes of a number of the opcode table, byte 0 of the frame the MOST significant one (R87). -/
def tableBytes : Nat → Nat → List Byte
  | 0, _ => []
  | n + 1, w => BitVec.ofNat 8 (w / 256 ^ n) :: tableBytes n w

end Sys2Proof.Machine
end

