-- ==== Sys2Proof/Decode.lean ====
section
/-!
DEFINITION. The decoder, total on every request word and every byte sequence and rejecting by name, and the encoder
written from the same tables (30_encoding.md R70, R71, R75 to R79, R83, R84, R87).
-/

namespace Sys2Proof

open Sys2Proof.Machine

/-- Why a code is no instruction of the opcode table. -/
inductive Reject where
  /-- A request whose OP is 0x0 or 0x7 to 0xF (R84, R85). -/
  | illegalOp (op : BitVec 4)
  /-- A byte sequence of neither 5 nor 9 bytes (R73). -/
  | frameLength (n : Nat)
  /-- Byte 0 is not START (R70, R71). -/
  | startMarker (b : Byte)
  /-- The byte before SUM is not END (R70, R71). -/
  | endMarker (b : Byte)
  /-- A 9-byte frame whose indexes 4 to 6 are not zero: a status reply or noise, no command frame (R71, R74). -/
  | reservedBytes (b4 b5 b6 : Byte)
  /-- A command byte that is none of the five in this frame form (R75 to R80). -/
  | notACommand (c : Byte)
  deriving DecidableEq, Repr

/-- A request is decoded by OP alone; a field its operation does not read is ignored (R83, R84). -/
def decodeRequest (w : ReqWord) (bs : List Byte) : Except Reject Instr :=
  match (reqOp w).toNat with
  | 1 => .ok (.encode (reqA w) (reqC w))
  | 2 => .ok (.encodeExt (reqA w) (reqC w) (reqN w))
  | 3 => .ok (.decode bs)
  | 4 => .ok .send
  | 5 => .ok (.awaitSingle (reqT w))
  | 6 => .ok (.awaitAll (reqT w))
  | _ => .error (.illegalOp (reqOp w))

/-- The command of a basic frame (R75, R76, R77). -/
def decodeBasic (a c k : Byte) : Except Reject Instr :=
  if c = 0x30#8 then .ok (.getDoorStatus a k)
  else if c = 0x31#8 then .ok (.unlock a k)
  else if c = 0x32#8 then .ok (.getBusStatus a k)
  else .error (.notACommand c)

/-- The command of an extended frame (R78, R79). -/
def decodeExtended (a c n k : Byte) : Except Reject Instr :=
  if c = 0x80#8 then .ok (.broadcastRecruit a n k)
  else if c = 0x81#8 then .ok (.assignNewAddress a n k)
  else .error (.notACommand c)

/-- A frame as a wire command: markers by position, then the reserved bytes of the 9-byte rows, then CMD. The SUM byte
is an operand, since the table's masks leave it free (R87; assumption 2). -/
def decodeFrame : List Byte → Except Reject Instr
  | [st, a, c, e, k] =>
    if st ≠ 0x02#8 then .error (.startMarker st)
    else if e ≠ 0x03#8 then .error (.endMarker e)
    else decodeBasic a c k
  | [st, a, c, n, r4, r5, r6, e, k] =>
    if st ≠ 0x02#8 then .error (.startMarker st)
    else if e ≠ 0x03#8 then .error (.endMarker e)
    else if r4 ≠ 0x00#8 ∨ r5 ≠ 0x00#8 ∨ r6 ≠ 0x00#8 then .error (.reservedBytes r4 r5 r6)
    else decodeExtended a c n k
  | bs => .error (.frameLength bs.length)

/-- The decoder. -/
def decodeInstr : Code → Except Reject Instr
  | .request w bs => decodeRequest w bs
  | .frame bs => decodeFrame bs

/-- The encoder: the request word with zero in every field its operation does not read (R83, R84), DECODE's byte
sequence beside the word, or the bytes of the frame (R70, R71, R75 to R79; assumption 15). -/
def encodeInstr : Instr → Code
  | .encode a c => .request (reqWord 0#32 0#8 c a 1#4) []
  | .encodeExt a c n => .request (reqWord 0#32 n c a 2#4) []
  | .decode bs => .request (reqWord 0#32 0#8 0#8 0#8 3#4) bs
  | .send => .request (reqWord 0#32 0#8 0#8 0#8 4#4) []
  | .awaitSingle t => .request (reqWord t 0#8 0#8 0#8 5#4) []
  | .awaitAll t => .request (reqWord t 0#8 0#8 0#8 6#4) []
  | .getDoorStatus a k => .frame (basicChunk a 0x30#8 k).bytes
  | .unlock a k => .frame (basicChunk a 0x31#8 k).bytes
  | .getBusStatus a k => .frame (basicChunk a 0x32#8 k).bytes
  | .broadcastRecruit a n k => .frame (extChunk a 0x80#8 n k).bytes
  | .assignNewAddress a n k => .frame (extChunk a 0x81#8 n k).bytes

/-- The code a number of the opcode table stands for (R87): 64 bits are a request word, with an empty byte sequence beside
it; any other width is a frame, byte 0 most significant. -/
def tableCode (nbits w : Nat) : Code :=
  if nbits = 64 then .request (BitVec.ofNat 64 w) [] else .frame (tableBytes (nbits / 8) w)

/-- The instruction the decoder reads from a number of the opcode table, numbered as the table numbers it (R87). -/
def decodeTableWord (nbits w : Nat) : Option Instr := (decodeInstr (tableCode nbits w)).toOption

end Sys2Proof
end

