-- ==== Sys2Proof/Config.lean ====
section
/-!
DEFINITION. What the spec leaves open: the OPEN parameters of 00_scope.md R2, which a model takes as an argument
(`Config.Params`, assumption 9), and the one free value of the step (`Config.freePrefix`, assumption 6).
-/

namespace Sys2Proof

/-- Which wait follows a broadcast-recruit send: the parameter `RECRUIT_AWAIT` (R2, R176, D31). -/
inductive RecruitAwait where
  | noWait
  | single
  | all
  deriving DecidableEq, Repr

/-- The serial line coding `LINE_*` (R2, R53, R216, D7). OPEN: no rule of the spec depends on these values, since the
block's line interface is a byte interface. -/
structure LineCoding where
  baud : Nat
  dataBits : Nat
  parity : Nat
  stopBits : Nat
  bitOrder : Nat
  deriving DecidableEq, Repr

/-- The OPEN parameters of R2. A statement that uses them holds for every value of them. -/
structure Config.Params where
  /-- `P_TICK`: real time between two ticks, in a unit the spec does not fix (D5). -/
  pTick : Nat
  /-- `T_SINGLE`: default time-out of a single-response wait, in ticks (D6). -/
  tSingle : Ticks
  /-- `T_ALL`: default gather window, in ticks (D6). -/
  tAll : Ticks
  /-- `LINE_*` (D7). -/
  line : LineCoding
  /-- `RECRUIT_NEWADDR`: NEWADDR byte of the broadcast-recruit frame (D31). -/
  recruitNewaddr : Byte
  /-- `RECRUIT_AWAIT` (D31). -/
  recruitAwait : RecruitAwait
  deriving DecidableEq, Repr

/-- FREE VALUE (assumption 6): how many bytes of a frame have left when a transmission is cut short by a write failure, a
fault or a reset: "any prefix of the frame, from none of its bytes to all of them" (R133, R209, R230; I9, I11). The
argument is a plain counter in `State`, so that each cut has a value of its own. -/
opaque Config.freePrefix : Nat → Nat

end Sys2Proof
end

