-- ==== Sys2Proof/Machine/State.lean ====
section
/-!
DEFINITION. The state of the FCT (10_state.md R20 to R33), with the little of its surroundings the model needs to say what
the block takes in and what it puts on the bus: the inputs not yet taken (41_transport.md R130), the bytes handed to the
line (00_scope.md R7, `LineSend`) and what has left on the bus (R131 to R133).
-/

namespace Sys2Proof.Machine

/-- The operation in progress, `STATE` (R23). -/
inductive OpState where
  | idle
  | tx
  | awaitSingle
  | awaitAll
  deriving DecidableEq, Repr

/-- The block's own sticky fault codes (R29; R205 to R208). Taking one is a next state (R209), not a stop of the model. -/
inductive FaultCode where
  | noFault
  | illegalOp
  | overlap
  | txEmpty
  | awaitNoSend
  deriving DecidableEq, Repr

/-- The 4-byte status field, four separate bytes (R52, R74). -/
structure StatusField where
  byte0 : Byte
  byte1 : Byte
  byte2 : Byte
  byte3 : Byte
  deriving DecidableEq, Repr

/-- The payload of KIND DECODED (R27). A 9-byte frame has a `FIELD`; in a 5-byte frame it has no value (R103, C1). -/
structure FrameFields where
  addr : Byte
  cmd : Byte
  field : Option StatusField
  deriving DecidableEq, Repr

/-- A verdict: a record of KIND 2, 3 or 4 (R27, R103). -/
inductive Verdict where
  | decoded (f : FrameFields)
  | malformedFrame
  | checksumMismatch
  deriving DecidableEq, Repr

/-- A chunk a wait returns, with its verdict (R27, R141). -/
structure Reply where
  chunk : Chunk
  verdict : Verdict
  deriving DecidableEq, Repr

/-- `RESULT`: its KIND and the payload that KIND has (R27). RESPONSES holds a non-empty list, so its first pair stands
apart (assumptions 12 and 21). -/
inductive Result where
  | noResult
  | frameReady
  | verdict (v : Verdict)
  | ack
  | ioError
  | response (r : Reply)
  | responses (r : Reply) (rs : List Reply)
  | noResponse
  deriving DecidableEq, Repr

/-- The inputs the block steps on, one at a time (R130). -/
inductive Input where
  /-- A host request: the request word and DECODE's byte sequence (R83). -/
  | request (w : ReqWord) (bs : List Byte)
  | txDone
  | txFail
  | rxChunk (c : Chunk)
  | tick
  | reset
  deriving DecidableEq, Repr

/-- The machine. The first nine fields are the block state `S`, "exactly these fields" (R20). The last four are the
model's own (assumptions 4, 5 and 6): what the surroundings present to the block, and what the block puts on the bus. -/
structure State where
  /-- `STATE` (R23). -/
  state : OpState
  /-- `SENT` (R24). -/
  sent : Bool
  /-- `TXBUF`, 9 bytes (R25). -/
  txbuf : Vector Byte 9
  /-- `TXLEN`, 4 bits, value 0, 5 or 9 (R25). -/
  txlen : BitVec 4
  /-- `RXQ`, the captured chunks in arrival order (R26). -/
  rxq : List Chunk
  /-- `TIMER` (R28). -/
  timer : Ticks
  /-- `TLIMIT` (R28). -/
  tlimit : Ticks
  /-- `RESULT` (R27). -/
  result : Result
  /-- `FAULT_CODE` (R29). -/
  faultCode : FaultCode
  /-- Model's own: the inputs the surroundings present and the block has not yet taken, oldest first (R130). -/
  pending : List Input
  /-- Model's own: the bytes handed to the line (`LineSend`, R7) whose transmission has not ended; empty when there is no
  transmission in progress. -/
  line : List Byte
  /-- Model's own: what each ended transmission put on the bus, oldest first (R132, R133, R209, R230). -/
  bus : List (List Byte)
  /-- Model's own: how many free values the run has used (assumption 6). -/
  freeCount : Nat
  deriving DecidableEq, Repr

/-- The machine right after reset (R33), with nothing pending and nothing on the bus. R33 gives `TXBUF` no value: the nine
zero bytes are a DESIGN CHOICE (assumption 1). -/
def State.reset : State where
  state := .idle
  sent := false
  txbuf := #v[0#8, 0#8, 0#8, 0#8, 0#8, 0#8, 0#8, 0#8, 0#8]
  txlen := 0#4
  rxq := []
  timer := 0#32
  tlimit := 0#32
  result := .noResult
  faultCode := .noFault
  pending := []
  line := []
  bus := []
  freeCount := 0

/-- `BUSY`, the derived bit `STATE != IDLE` (R23). -/
def State.busy (s : State) : Bool := s.state != .idle

/-- `HALTED`, the derived bit `FAULT_CODE != 0` (R29). -/
def State.halted (s : State) : Bool := s.faultCode != .noFault

/-- The frame the next SEND transmits, `TXBUF[0..TXLEN-1]` (R25). -/
def State.frame (s : State) : List Byte := s.txbuf.toList.take s.txlen.toNat

/-- Why the model stops with a fault. The block's own faults are `FaultCode`, taken as next states. -/
inductive Fault where
  /-- Raised by the host's reads (Machine/HostView.lean) of a byte or a payload field that holds no value: a `TXBUF` byte at
  or beyond `TXLEN`, or a payload field the current KIND does not have. "reading it is a fault of the model, never a zero"
  (R6, R25, R27, I12). Safe: nothing is read. No instruction and no input raises it. -/
  | noValue
  deriving DecidableEq, Repr

/-- Why the model gives an input or an instruction no next state. -/
inductive Refusal where
  /-- Raised by an arm of `exec` whose instruction has no meaning yet. Safe. No arm raises it. -/
  | notModelled (mnemonic : String)
  /-- Raised by the step on a pending TX_DONE or TX_FAIL while the block is not halted and `STATE` is not TX: there the input
  "does not occur" (R130, R132, R133, R144), so there is no step to take. Safe. No instruction raises it. -/
  | lineReportNotEnabled
  deriving DecidableEq, Repr

end Sys2Proof.Machine
end

