-- ==== Sys2Proof/Machine/Ops.lean ====
section
/-!
DEFINITION. The named operations over the state: the pseudocode primitives of 00_scope.md R7, the verdict of a byte
sequence (40_codec.md R103), the transport's operations and inputs (41_transport.md R131 to R140), fault entry
(60_exceptions.md R209), which is the one exception mechanism, and reset (70_reset_and_hazards.md R230), the only return
from it (R211).
-/

namespace Sys2Proof.Machine

/-! ### Primitive updates -/

/-- The inputs not yet taken become `xs`. -/
def setPending (xs : List Input) (s : State) : State := { s with pending := xs }

/-- `TXBUF` with the bytes of `f` from index 0; the bytes beyond keep their old contents (R7, R25). -/
def overwrite (f : List Byte) (buf : Vector Byte 9) : Vector Byte 9 :=
  Vector.ofFn fun i => f.getD i.val buf[i]

/-- `TxWrite(f)` (R7). -/
def txWrite (f : List Byte) (s : State) : State :=
  { s with txbuf := overwrite f s.txbuf, txlen := BitVec.ofNat 4 f.length }

/-- `complete(kind, payload)` (R7). -/
def complete (r : Result) (s : State) : State := { s with result := r }

/-- `Enqueue(c)` (R7). -/
def enqueue (c : Chunk) (s : State) : State := { s with rxq := s.rxq ++ [c] }

/-- `finish()`: a wait ends and the capture window closes (R140). -/
def finish (s : State) : State := { s with state := .idle, sent := false, rxq := [] }

/-- The start of a wait: `TLIMIT <- T`, `TIMER <- 0` (R135, R138). -/
def startWait (t : Ticks) (s : State) : State := { s with tlimit := t, timer := 0#32 }

/-- `STATE <- st`. -/
def enterState (st : OpState) (s : State) : State := { s with state := st }

/-- One more tick of the current wait (R137; assumption 11). -/
def countTick (s : State) : State := { s with timer := s.timer + 1#32 }

/-- `LineSend(bs)`: hand the bytes to the serial line in index order (R7, R51). -/
def lineSend (bs : List Byte) (s : State) : State := { s with line := bs }

/-- The transmission in progress ends after its first `n` bytes. -/
def lineEnd (n : Nat) (s : State) : State :=
  { s with line := [], bus := s.bus ++ [s.line.take n] }

/-- The transmission in progress, if there is one, ends with every byte written (R132). -/
def lineDone (s : State) : State :=
  if s.line = [] then s else lineEnd s.line.length s

/-- The transmission in progress, if there is one, is cut short after a free number of bytes, from none to all
(R133, R209, R230; I9, I11). -/
def lineCut (s : State) : State :=
  if s.line = [] then s
  else { lineEnd (Config.freePrefix s.freeCount) s with freeCount := s.freeCount + 1 }

/-! ### Faults -/

/-- `raise Fault(code)`: the first fault is kept and nothing else of `S` changes (R209). A transmission in progress may go
on or stop, at any byte (assumptions 8 and 20). -/
def raiseFault (code : FaultCode) (s : State) : State :=
  if s.faultCode = .noFault then { lineCut s with faultCode := code } else s

/-- A host request with a legal OP: ignored while halted (R209), OVERLAP while busy (R206), else its operation
(R210). -/
def takeRequest (op : State → State) (s : State) : State :=
  if s.halted then s else if s.busy then raiseFault .overlap s else op s

/-- A host request with an illegal OP: ignored while halted, else ILLEGAL_OP in any state (R205, R210). -/
def illegalRequest (s : State) : State :=
  if s.halted then s else raiseFault .illegalOp s

/-- Reset: every field of `S` at its reset value (R230, R33). What lies outside the block stays: the inputs still to come,
and the bus, on which a transmission in progress "stops at some byte or finishes" (assumptions 19 and 20). -/
def resetBlock (s : State) : State :=
  { State.reset with
    pending := s.pending, line := [], bus := (lineCut s).bus, freeCount := (lineCut s).freeCount }

/-! ### The codec -/

/-- The checks of R103 after the length: markers, then checksum. -/
def checkFrame (st e k sum : Byte) (f : FrameFields) : Verdict :=
  if st ≠ startMarker ∨ e ≠ endMarker then .malformedFrame
  else if k ≠ sum then .checksumMismatch
  else .decoded f

/-- `verdict(bs)`: length, markers, checksum, in that order (R103, D10). -/
def verdict : List Byte → Verdict
  | [st, a, c, e, k] => checkFrame st e k (sum8 [st, a, c, e]) ⟨a, c, none⟩
  | [st, a, c, f0, f1, f2, f3, e, k] =>
    checkFrame st e k (sum8 [st, a, c, f0, f1, f2, f3, e]) ⟨a, c, some ⟨f0, f1, f2, f3⟩⟩
  | _ => .malformedFrame

/-- The pair (chunk, verdict) a wait returns (R27, R141). -/
def reply (c : Chunk) : Reply := ⟨c, verdict c.bytes⟩

/-- A frame is written to `TXBUF` and announced (R101, R102). -/
def buildFrame (f : List Byte) (s : State) : State := complete .frameReady (txWrite f s)

/-- DECODE writes `RESULT` only (R103, R104). -/
def decodeBytes (bs : List Byte) (s : State) : State := complete (.verdict (verdict bs)) s

/-! ### The transport -/

/-- SEND of an idle block (R131). -/
def startSend (s : State) : State :=
  if s.txlen = 0#4 then raiseFault .txEmpty s
  else lineSend s.frame { s with rxq := [], sent := false, state := .tx }

/-- TX_DONE in `STATE = TX` (R132). -/
def txDone (s : State) : State :=
  complete .ack { lineDone s with state := .idle, sent := true }

/-- TX_FAIL in `STATE = TX` (R133). -/
def txFail (s : State) : State :=
  complete .ioError { lineCut s with state := .idle, sent := false }

/-- A wait ends with the given result (R136, R137, R139, R140). -/
def endWait (r : Result) (s : State) : State := finish (complete r s)

/-- The result of a gather-all window that captured these chunks (R139). -/
def gatherResult : List Chunk → Result
  | [] => .noResponse
  | c :: cs => .responses (reply c) (cs.map reply)

/-- End of the gather-all window (R139). -/
def endGather (s : State) : State := endWait (gatherResult s.rxq) s

/-- AWAIT_SINGLE of an idle block (R135). -/
def startAwaitSingle (t : Ticks) (s : State) : State :=
  if s.sent = false then raiseFault .awaitNoSend s
  else match s.rxq with
    | c :: _ => endWait (.response (reply c)) (startWait t s)
    | [] =>
      if t = 0#32 then endWait .noResponse (startWait t s)
      else enterState .awaitSingle (startWait t s)

/-- AWAIT_ALL of an idle block (R138). -/
def startAwaitAll (t : Ticks) (s : State) : State :=
  if s.sent = false then raiseFault .awaitNoSend s
  else if t = 0#32 then endGather (startWait t s)
  else enterState .awaitAll (startWait t s)

/-- `RX_CHUNK(c)`: queued inside a capture window, ends a single wait, discarded otherwise (R134, R136, R61). -/
def rxChunk (c : Chunk) (s : State) : State :=
  if s.halted then s
  else match s.state with
    | .tx => s
    | .awaitSingle => endWait (.response (reply c)) (enqueue c s)
    | .awaitAll => enqueue c s
    | .idle => if s.sent then enqueue c s else s

/-- `TICK`: counts a wait and ends it when `TIMER` reaches `TLIMIT` (R137, R139). -/
def tick (s : State) : State :=
  if s.halted then s
  else match s.state with
    | .idle => s
    | .tx => s
    | .awaitSingle =>
      if s.timer + 1#32 = s.tlimit then endWait .noResponse (countTick s) else countTick s
    | .awaitAll =>
      if s.timer + 1#32 = s.tlimit then endGather (countTick s) else countTick s

end Sys2Proof.Machine
end

