-- ==== Sys2Proof/Machine/Codec.lean ====
section
/-!
DEFINITION. The codec family: ENCODE, ENCODE_EXT and DECODE (40_codec.md R101 to R104).
-/

namespace Sys2Proof.Machine

/-- ENCODE a, c: the basic frame into `TXBUF`, FRAME_READY (R101). -/
def execEncode (a c : Byte) (s : State) : Host.Outcome State Fault Refusal :=
  .next (takeRequest (buildFrame (basicFrame a c)) s)

/-- ENCODE_EXT a, c, n: the extended frame into `TXBUF`, FRAME_READY (R102). -/
def execEncodeExt (a c n : Byte) (s : State) : Host.Outcome State Fault Refusal :=
  .next (takeRequest (buildFrame (extFrame a c n)) s)

/-- DECODE B: the verdict of B into `RESULT` (R103). -/
def execDecode (bs : List Byte) (s : State) : Host.Outcome State Fault Refusal :=
  .next (takeRequest (decodeBytes bs) s)

end Sys2Proof.Machine
end

