-- ==== Sys2Proof/Machine/Transport.lean ====
section
/-!
DEFINITION. The transport family: SEND, AWAIT_SINGLE and AWAIT_ALL (41_transport.md R131, R135, R138).
-/

namespace Sys2Proof.Machine

/-- SEND (R131). -/
def execSend (s : State) : Host.Outcome State Fault Refusal :=
  .next (takeRequest startSend s)

/-- AWAIT_SINGLE t (R135). -/
def execAwaitSingle (t : Ticks) (s : State) : Host.Outcome State Fault Refusal :=
  .next (takeRequest (startAwaitSingle t) s)

/-- AWAIT_ALL t (R138). -/
def execAwaitAll (t : Ticks) (s : State) : Host.Outcome State Fault Refusal :=
  .next (takeRequest (startAwaitAll t) s)

end Sys2Proof.Machine
end

