-- ==== Sys2Proof/Machine/Wire.lean ====
section
/-!
DEFINITION. The wire commands (30_encoding.md R75 to R79). Frames are what "the block puts on and takes off the bus". A
command frame that reaches the block does so as a chunk, the one input that carries frame bytes (41_transport.md R130), and
its meaning is what the block does with that chunk (R134); assumption 3. The way out is ENCODE or ENCODE_EXT, which build
the same bytes, and SEND. What a control unit does on a command is outside the block (00_scope.md section 2.2).
-/

namespace Sys2Proof.Machine

/-- GET_DOOR_STATUS at the block (R75, R134). -/
def execGetDoorStatus (addr sum : Byte) (s : State) : Host.Outcome State Fault Refusal :=
  .next (rxChunk (basicChunk addr 0x30#8 sum) s)

/-- UNLOCK at the block (R76, R134). -/
def execUnlock (addr sum : Byte) (s : State) : Host.Outcome State Fault Refusal :=
  .next (rxChunk (basicChunk addr 0x31#8 sum) s)

/-- GET_BUS_STATUS at the block (R77, R134). -/
def execGetBusStatus (addr sum : Byte) (s : State) : Host.Outcome State Fault Refusal :=
  .next (rxChunk (basicChunk addr 0x32#8 sum) s)

/-- BROADCAST_RECRUIT at the block (R78, R134). -/
def execBroadcastRecruit (addr newaddr sum : Byte) (s : State) : Host.Outcome State Fault Refusal :=
  .next (rxChunk (extChunk addr 0x80#8 newaddr sum) s)

/-- ASSIGN_NEW_ADDRESS at the block (R79, R134). -/
def execAssignNewAddress (addr newaddr sum : Byte) (s : State) : Host.Outcome State Fault Refusal :=
  .next (rxChunk (extChunk addr 0x81#8 newaddr sum) s)

end Sys2Proof.Machine
end

