-- ==== Sys2Proof/Machine/Dispatch.lean ====
section
/-! DEFINITION. One arm per instruction (spec/opcode_table.json). -/

namespace Sys2Proof.Machine

def exec (i : Instr) (s : State) : Host.Outcome State Fault Refusal :=
  match i with
  -- host requests (R84)
  | .encode a c => Sys2Proof.Machine.execEncode a c s
  | .encodeExt a c n => Sys2Proof.Machine.execEncodeExt a c n s
  | .decode bs => Sys2Proof.Machine.execDecode bs s
  | .send => Sys2Proof.Machine.execSend s
  | .awaitSingle t => Sys2Proof.Machine.execAwaitSingle t s
  | .awaitAll t => Sys2Proof.Machine.execAwaitAll t s
  -- wire commands (R75 to R79)
  | .getDoorStatus a k => Sys2Proof.Machine.execGetDoorStatus a k s
  | .unlock a k => Sys2Proof.Machine.execUnlock a k s
  | .getBusStatus a k => Sys2Proof.Machine.execGetBusStatus a k s
  | .broadcastRecruit a n k => Sys2Proof.Machine.execBroadcastRecruit a n k s
  | .assignNewAddress a n k => Sys2Proof.Machine.execAssignNewAddress a n k s

end Sys2Proof.Machine
end

