-- ==== Sys2Proof/Machine/Inputs.lean ====
section
/-!
DEFINITION. Taking one input (41_transport.md R130, R144): an instruction's code is decoded and run by `exec`; the reports
of the line, the ticks and reset are the operations of Machine/Ops.lean. Also the code an input carries and the input that
carries a code.
-/

namespace Sys2Proof.Machine

/-- The code of the instruction an input may carry: a request's word (R83), or the bytes of a received chunk (R134). The
other inputs carry none. -/
def inputCode : Input → Option Code
  | .request w bs => some (.request w bs)
  | .rxChunk c => some (.frame c.bytes)
  | .txDone => none
  | .txFail => none
  | .tick => none
  | .reset => none

/-- The input that presents a code to the block. No input carries an empty frame, since a chunk is not empty (R130). -/
def codeInput : Code → Option Input
  | .request w bs => some (.request w bs)
  | .frame (b :: bs) => some (.rxChunk ⟨b, bs⟩)
  | .frame [] => none

/-- A request: the instruction its word decodes to, or ILLEGAL_OP where it decodes to none (R84, R205). -/
def takeRequestWord (w : ReqWord) (bs : List Byte) (s : State) : Host.Outcome State Fault Refusal :=
  match decodeInstr (.request w bs) with
  | .ok i => exec i s
  | .error _ => .next (illegalRequest s)

/-- A received chunk: a wire command where its bytes are one, any other bytes as they stand; the block stores both alike
(R134, R141). -/
def takeChunk (c : Chunk) (s : State) : Host.Outcome State Fault Refusal :=
  match decodeInstr (.frame c.bytes) with
  | .ok i => exec i s
  | .error _ => .next (rxChunk c s)

/-- A report of the line transmitter: ignored while halted (R209, R144), taken in `STATE = TX`, and elsewhere an input that
"does not occur" (R130, R132, R133; assumption 7). -/
def lineReport (op : State → State) (s : State) : Host.Outcome State Fault Refusal :=
  if s.halted then .next s
  else if s.state = .tx then .next (op s)
  else .refused .lineReportNotEnabled

/-- One input is taken (R130). -/
def takeInput (x : Input) (s : State) : Host.Outcome State Fault Refusal :=
  match x with
  | .request w bs => takeRequestWord w bs s
  | .txDone => lineReport txDone s
  | .txFail => lineReport txFail s
  | .rxChunk c => takeChunk c s
  | .tick => .next (tick s)
  | .reset => .next (resetBlock s)

/-- No input is pending: the block waits and keeps all its state (R219, R230; assumption 4). -/
def waitForInput (s : State) : Host.Outcome State Fault Refusal := .next s

/-- The state with the input that carries a code presented first. -/
def presentCode (c : Code) (s : State) : State :=
  match codeInput c with
  | some x => setPending (x :: s.pending) s
  | none => s

end Sys2Proof.Machine
end

