-- ==== Sys2Proof/Machine/Step.lean ====
section
/-!
DEFINITION. The step: the block takes the oldest pending input (41_transport.md R130). `State.withFetchWord` presents an
instruction as the next input (10_state.md R22: the host's stream of requests takes the place of a program).
-/

namespace Sys2Proof.Machine

/-- One step: exactly one input is taken; with none pending the block waits. -/
def step (s : State) : Host.Outcome State Fault Refusal :=
  match s.pending with
  | [] => waitForInput s
  | x :: xs => takeInput x (setPending xs s)

/-- `s` with the instruction the table numbers `w` presented as its next input. -/
def State.withFetchWord (s : State) (nbits w : Nat) : State := presentCode (tableCode nbits w) s

end Sys2Proof.Machine
end

