-- ==== Sys2Proof/Machine/Flags.lean ====
section
/-!
DEFINITION. Flags and codes: the status word (10_state.md R30), the KIND codes (R27), the fault codes (R29), the flags and
the device status of a decoded status reply (40_codec.md R105, R106) and the hex view (R107).
-/

namespace Sys2Proof.Machine

/-- The 2-bit code of `STATE` (R23). -/
def stateCode : OpState → BitVec 2
  | .idle => 0#2
  | .tx => 1#2
  | .awaitSingle => 2#2
  | .awaitAll => 3#2

/-- The 4-bit fault code (R29). -/
def faultCodeBits : FaultCode → BitVec 4
  | .noFault => 0#4
  | .illegalOp => 1#4
  | .overlap => 2#4
  | .txEmpty => 3#4
  | .awaitNoSend => 4#4

/-- The KIND of a verdict (R27). -/
def verdictKind : Verdict → BitVec 4
  | .decoded _ => 2#4
  | .malformedFrame => 3#4
  | .checksumMismatch => 4#4

/-- `RESULT.KIND` (R27). -/
def resultKind : Result → BitVec 4
  | .noResult => 0#4
  | .frameReady => 1#4
  | .verdict v => verdictKind v
  | .ack => 5#4
  | .ioError => 6#4
  | .response _ => 7#4
  | .responses _ _ => 8#4
  | .noResponse => 9#4

/-- The 16-bit read-only status word `STATUS` (R30). -/
def statusWord (s : State) : BitVec 16 :=
  s.txlen ++ resultKind s.result ++ faultCodeBits s.faultCode ++ BitVec.ofBool s.busy ++
    BitVec.ofBool s.sent ++ stateCode s.state

/-- What a flag byte says (R105). -/
inductive Flag where
  | isTrue
  | isFalse
  | unrecognised
  deriving DecidableEq, Repr

/-- `flag(b)` (R105). -/
def flag (b : Byte) : Flag :=
  if b = 0x01#8 then .isTrue else if b = 0x00#8 then .isFalse else .unrecognised

/-- The status of a device (R106). -/
inductive DeviceStatus where
  | busy
  | opened
  | closed
  | unrecognised
  deriving DecidableEq, Repr

/-- The status from the two flags: busy takes precedence (R106). -/
def statusOfFlags (doorOpen busy : Flag) : DeviceStatus :=
  match busy, doorOpen with
  | .isTrue, _ => .busy
  | .isFalse, .isTrue => .opened
  | .isFalse, .isFalse => .closed
  | .isFalse, .unrecognised => .unrecognised
  | .unrecognised, _ => .unrecognised

/-- The `FIELD` of a verdict, where it has one: DECODED with LEN 9 (R103, R105). -/
def verdictField : Verdict → Option StatusField
  | .decoded f => f.field
  | .malformedFrame => none
  | .checksumMismatch => none

/-- The door-open flag of a verdict; a verdict without FIELD has none (R105). -/
def doorOpen (v : Verdict) : Option Flag := (verdictField v).map fun f => flag f.byte0

/-- The busy flag of a verdict; a verdict without FIELD has none (R105). -/
def busyFlag (v : Verdict) : Option Flag := (verdictField v).map fun f => flag f.byte2

/-- The device status of a verdict (R106). -/
def deviceStatus (v : Verdict) : Option DeviceStatus :=
  (verdictField v).map fun f => statusOfFlags (flag f.byte0) (flag f.byte2)

/-- The lower-case hex digit of a value 0 to 15 (R107). -/
def hexDigit (n : Nat) : Char :=
  if n < 10 then Char.ofNat (48 + n) else Char.ofNat (87 + n)

/-- The characters of the hex view, two digits a byte, no separator (R107). -/
def hexChars (bs : List Byte) : List Char :=
  bs.flatMap fun b => [hexDigit (b.toNat / 16), hexDigit (b.toNat % 16)]

/-- The hex view of a byte sequence (R107). -/
def hex (bs : List Byte) : String := String.ofList (hexChars bs)

end Sys2Proof.Machine
end

