-- ==== Sys2Proof/Machine/HostView.lean ====
section
/-!
DEFINITION. What the host reads, at any time and without side effects (60_exceptions.md R218, 20_memory.md R56): `STATUS`,
`RESULT` and the fields of its payload, `TIMER`, `TLIMIT` and `TXBUF[0..TXLEN-1]`. A read of what holds no value is the
model's fault `noValue` (00_scope.md R6; assumption 13).
-/

namespace Sys2Proof.Machine

/-- The host's read of `STATUS` (R30, R218). -/
def readStatus (s : State) : BitVec 16 := statusWord s

/-- The host's read of `RESULT` (R27, R218). -/
def readResult (s : State) : Result := s.result

/-- The host's read of `TIMER` (R28, R218, C7). -/
def readTimer (s : State) : Ticks := s.timer

/-- The host's read of `TLIMIT` (R28, R218, C7). -/
def readTlimit (s : State) : Ticks := s.tlimit

/-- The host's read of one byte of `TXBUF[0..TXLEN-1]`; a byte beyond it is not readable (R25, R218). -/
def readTxbuf (i : Nat) (s : State) : Except Fault Byte :=
  match s.frame[i]? with
  | some b => .ok b
  | none => .error .noValue

/-- The payload of a DECODED verdict; the other kinds have none (R27, R104). -/
def readFields : Verdict → Except Fault FrameFields
  | .decoded f => .ok f
  | .malformedFrame => .error .noValue
  | .checksumMismatch => .error .noValue

/-- `LEN` of a decoded frame: 9 with a FIELD, 5 without (R27, R103). -/
def readLen (f : FrameFields) : Nat := if f.field.isSome then 9 else 5

/-- `FIELD` of a decoded frame, no value when LEN is 5 (R27). -/
def readField (f : FrameFields) : Except Fault StatusField :=
  match f.field with
  | some x => .ok x
  | none => .error .noValue

/-- The verdict a DECODE left in `RESULT` (R27). -/
def readVerdict : Result → Except Fault Verdict
  | .verdict v => .ok v
  | .noResult => .error .noValue
  | .frameReady => .error .noValue
  | .ack => .error .noValue
  | .ioError => .error .noValue
  | .response _ => .error .noValue
  | .responses _ _ => .error .noValue
  | .noResponse => .error .noValue

/-- The pairs (chunk, verdict) a wait left in `RESULT`, in arrival order (R27). -/
def readReplies : Result → Except Fault (List Reply)
  | .response r => .ok [r]
  | .responses r rs => .ok (r :: rs)
  | .noResult => .error .noValue
  | .frameReady => .error .noValue
  | .verdict _ => .error .noValue
  | .ack => .error .noValue
  | .ioError => .error .noValue
  | .noResponse => .error .noValue

end Sys2Proof.Machine
end

