-- ==== Sys2Proof/Machine/HostSeq.lean ====
section
/-!
DEFINITION. The host's boundary calls as sequences of requests (42_host_sequences.md R170 to R177): their expansions, the
host issuing them one at a time while the block is idle, where a call stops, and the record it ends with (assumptions 16, 17 and 22).
-/

namespace Sys2Proof.Machine

/-- The boundary calls in scope (00_scope.md section 2.1). -/
inductive HostCall where
  /-- `sendRaw(address, command)` (R172). -/
  | sendRaw (a c : Byte)
  /-- `getSingleStatus(address)` (R173). -/
  | getSingleStatus (a : Byte)
  /-- `getBusStatus()` (R174). -/
  | getBusStatus
  /-- `assignAddress(old, new)` (R175). -/
  | assignAddress (o n : Byte)
  /-- `beginRecruitment()` (R176). -/
  | beginRecruitment
  deriving DecidableEq, Repr

/-- The wait a recruit call ends with (R176). -/
def recruitWait (p : Config.Params) : List Instr :=
  match p.recruitAwait with
  | .noWait => []
  | .single => [.awaitSingle p.tSingle]
  | .all => [.awaitAll p.tAll]

/-- The expansion of a call into requests (R172 to R176). -/
def expandCall (p : Config.Params) : HostCall → List Instr
  | .sendRaw a c => [.encode a c, .send, .awaitSingle p.tSingle]
  | .getSingleStatus a => [.encode a 0x30#8, .send, .awaitSingle p.tSingle]
  | .getBusStatus => [.encode 0xF0#8 0x32#8, .send, .awaitAll p.tAll]
  | .assignAddress o n => [.encodeExt o 0x81#8 n, .send, .awaitSingle p.tSingle]
  | .beginRecruitment => [.encodeExt 0xFF#8 0x80#8 p.recruitNewaddr, .send] ++ recruitWait p

/-- How far a call has come: whether a request of it was issued, and the requests still to issue. -/
structure CallProgress where
  started : Bool
  rest : List Instr
  deriving DecidableEq, Repr

/-- A call before its first request. -/
def beginCall (p : Config.Params) (c : HostCall) : CallProgress := ⟨false, expandCall p c⟩

/-- A call stops at the first request whose outcome is IO_ERROR or a fault (R171). -/
def callStopped (k : CallProgress) (s : State) : Bool :=
  k.started && (s.halted || s.result == .ioError)

/-- A call is complete when its last request is (R170). How a call ends when a reset lands in it no rule says, and the model's
choice is assumption 22: the host goes on with the next request, and a reset that abandons the call's last wait completes the
call, with `TXBUF` empty and RESULT NONE in its record. -/
def callFinished (k : CallProgress) (s : State) : Bool :=
  k.started && k.rest.isEmpty && !s.busy

/-- The record of a call (R170). -/
inductive CallRecord where
  | failure (errorMessage : String)
  | success (transmittedFrameHex : String) (response : Result)
  deriving DecidableEq, Repr

/-- The name of a fault code (R29). -/
def faultName : FaultCode → String
  | .noFault => "NONE"
  | .illegalOp => "ILLEGAL_OP"
  | .overlap => "OVERLAP"
  | .txEmpty => "TX_EMPTY"
  | .awaitNoSend => "AWAIT_NO_SEND"

/-- The record built from the block state after the last request (R170; of a call that a reset or another request landed in,
assumption 22). -/
def callRecord (s : State) : CallRecord :=
  if s.result = .ioError then .failure "IOError"
  else if s.halted then .failure (faultName s.faultCode)
  else .success (hex s.frame) s.result

/-- Who moves next while a call runs: the host, or an input from outside it. -/
inductive Turn where
  | host
  | outside (x : Input)
  deriving DecidableEq, Repr

/-- One turn. The host issues its next request, the call's first one among them, when the block is idle and not halted, and
waits otherwise (R177, R213; assumption 16); no record where the input is refused. -/
def callTurn (t : Turn) (k : CallProgress) (s : State) : Option (CallProgress × State) :=
  match t with
  | .host =>
    if s.busy || s.halted then some (k, s)
    else match k.rest with
      | [] => some (k, s)
      | i :: is =>
        match exec i s with
        | .next s' => some (⟨true, is⟩, s')
        | .fault _ => none
        | .refused _ => none
  | .outside x =>
    match takeInput x s with
    | .next s' => some (k, s')
    | .fault _ => none
    | .refused _ => none

/-- A call run on a schedule of turns, to its record and the state it leaves; none where the schedule ends first. -/
def runCall : List Turn → CallProgress → State → Option (CallRecord × State)
  | [], k, s =>
    if callStopped k s || callFinished k s then some (callRecord s, s) else none
  | t :: ts, k, s =>
    if callStopped k s || callFinished k s then some (callRecord s, s)
    else match callTurn t k s with
      | some (k', s') => runCall ts k' s'
      | none => none

end Sys2Proof.Machine
end

