-- ==== Sys2Proof/Safety.lean ====
section
/-!
DEFINITION. What counts as a failed run, what an outcome's next state is, and the invariants the statements use as premises
(10_state.md R23 to R29, 41_transport.md R134 to R140).
-/

namespace Sys2Proof.Machine

/-- A halted block is a failure: "A halted block is never a finished run: a model must treat it as a failure, not as an end
state" (60_exceptions.md R209). -/
abbrev Failed (s : State) : Prop := s.halted = true

/-- The next state of an outcome, where it is one. -/
def afterStep : Host.Outcome State Fault Refusal → Option State
  | .next s => some s
  | .fault _ => none
  | .refused _ => none

/-- `S` but for `FAULT_CODE`: STATE, SENT, TXBUF, TXLEN, RXQ, TIMER, TLIMIT, RESULT have the same values (R209). -/
structure SameButFault (s t : State) : Prop where
  state : t.state = s.state
  sent : t.sent = s.sent
  txbuf : t.txbuf = s.txbuf
  txlen : t.txlen = s.txlen
  rxq : t.rxq = s.rxq
  timer : t.timer = s.timer
  tlimit : t.tlimit = s.tlimit
  result : t.result = s.result

/-- All of the block state `S` has the same value (R20). -/
structure SameBlock (s t : State) : Prop extends SameButFault s t where
  faultCode : t.faultCode = s.faultCode

/-- The chunk an input delivers, where it is an RX_CHUNK (R130). -/
def inputChunk : Input → Option Chunk
  | .rxChunk c => some c
  | .request _ _ => none
  | .txDone => none
  | .txFail => none
  | .tick => none
  | .reset => none

/-- The operation code of the request an input carries (R84). -/
def inputOp : Input → Option Nat
  | .request w _ => some (w.toNat % 16)
  | .rxChunk _ => none
  | .txDone => none
  | .txFail => none
  | .tick => none
  | .reset => none

/-- `TXLEN` is 0, 5 or 9, and where it is not 0 the frame in `TXBUF` is one DECODE accepts (R25, R109). -/
abbrev FrameInv (s : State) : Prop :=
  (s.txlen = 0#4 ∨ s.txlen = 5#4 ∨ s.txlen = 9#4) ∧
    (s.txlen ≠ 0#4 → ∃ f, verdict s.frame = .decoded f)

/-- What each value of `STATE` says of `SENT`, `RXQ`, `TIMER` and `TLIMIT` (R23, R24, R26, R28, R136). -/
def ModeInv (s : State) : Prop :=
  match s.state with
  | .idle => s.sent = false → s.rxq = []
  | .tx => s.sent = false ∧ s.rxq = [] ∧ s.txlen ≠ 0#4
  | .awaitSingle => s.sent = true ∧ s.rxq = [] ∧ s.timer < s.tlimit
  | .awaitAll => s.sent = true ∧ s.timer < s.tlimit

/-- `TIMER` never exceeds `TLIMIT` (R28). -/
abbrev TimerInv (s : State) : Prop := s.timer ≤ s.tlimit

/-- The pair carries the verdict of its own chunk (R27, R103, R141). -/
abbrev ReplyInv (r : Reply) : Prop := r.verdict = verdict r.chunk.bytes

/-- Every chunk in `RESULT` stands with its own verdict, and FRAME_READY stands only beside a frame (R27). -/
def ResultInv (s : State) : Prop :=
  match s.result with
  | .response r => ReplyInv r
  | .responses r rs => ReplyInv r ∧ ∀ x ∈ rs, ReplyInv x
  | .frameReady => s.txlen ≠ 0#4
  | .noResult => True
  | .verdict _ => True
  | .ack => True
  | .ioError => True
  | .noResponse => True

/-- A transmission is in progress exactly while the block is in TX and not halted, and it is of the frame in `TXBUF` (R131,
R63; the model's fields `line` and `bus`, assumption 5). What has left on the bus is in each case the first bytes of a frame
DECODE accepts. -/
def LineInv (s : State) : Prop :=
  (s.state = .tx ∧ s.halted = false → s.line = s.frame) ∧
    (s.state ≠ .tx ∨ s.halted = true → s.line = []) ∧
    ∀ b ∈ s.bus, ∃ f x, verdict f = .decoded x ∧ b <+: f

/-- The invariant of the block. -/
structure BlockInv (s : State) : Prop where
  frame : FrameInv s
  mode : ModeInv s
  timer : TimerInv s
  result : ResultInv s
  line : LineInv s

end Sys2Proof.Machine
end

