-- ==== Sys2Proof/WellFormed.lean ====
section
/-!
DEFINITION. Well-formed instructions. A request is well formed whatever its operands hold (40_codec.md R101 to R103,
41_transport.md R135, R138); a wire command is well formed when its SUM byte is `sum8` of START through END
(30_encoding.md R72).
-/

namespace Sys2Proof

open Sys2Proof.Machine

/-- The check of each constructor. -/
def wellFormed : Instr → Bool
  | .encode _ _ => true
  | .encodeExt _ _ _ => true
  | .decode _ => true
  | .send => true
  | .awaitSingle _ => true
  | .awaitAll _ => true
  | .getDoorStatus a k => k == sum8 [startMarker, a, 0x30#8, endMarker]
  | .unlock a k => k == sum8 [startMarker, a, 0x31#8, endMarker]
  | .getBusStatus a k => k == sum8 [startMarker, a, 0x32#8, endMarker]
  | .broadcastRecruit a n k => k == sum8 [startMarker, a, 0x80#8, n, 0x00#8, 0x00#8, 0x00#8, endMarker]
  | .assignNewAddress a n k => k == sum8 [startMarker, a, 0x81#8, n, 0x00#8, 0x00#8, 0x00#8, endMarker]

/-- The instruction satisfies its check. -/
abbrev WellFormed (i : Instr) : Prop := wellFormed i = true

end Sys2Proof
end

