-- ==== Sys2Proof/Certificates/Slice0/Obligations.lean ====
section
/-!
DEFINITION. The statements about the FCT, from the numbered rules of spec/. A next state is written as an update of the
state before, so that each such statement is the instruction's frame as well: a field the update does not name keeps its
value. OBLIGATIONS.json gives each statement's tier, rules and quote.
-/

open Sys2Proof Sys2Proof.Machine

/-! ### Encodings -/

/-- Words written out from 30_encoding.md R70, R71, R75 to R79, R83 and R84 decode to the instruction they stand for; the
words are those of 95_test_vectors.md V10, V30, V80, V90 and W3. -/
def Obligations.SpecWordsDecode : Prop :=
  decodeInstr (.request 0x0000000000310001#64 []) = .ok (.encode 0x00#8 0x31#8) ∧
  decodeInstr (.request 0x0000000001810002#64 []) = .ok (.encodeExt 0x00#8 0x81#8 0x01#8) ∧
  decodeInstr (.request 0x0000000A00000005#64 []) = .ok (.awaitSingle 10#32) ∧
  decodeInstr (.request 0x0000000000000006#64 []) = .ok (.awaitAll 0#32) ∧
  decodeInstr (.frame [0x02#8, 0x00#8, 0x30#8, 0x03#8, 0x35#8]) = .ok (.getDoorStatus 0x00#8 0x35#8) ∧
  decodeInstr (.frame [0x02#8, 0x00#8, 0x81#8, 0x01#8, 0#8, 0#8, 0#8, 0x03#8, 0x87#8]) =
    .ok (.assignNewAddress 0x00#8 0x01#8 0x87#8)

/-- Decode and encode agree: every instruction, with every operand at every value, is read back from its own code. -/
def Obligations.DecodeOfEncodeIsIdentity : Prop :=
  ∀ i : Instr, decodeInstr (encodeInstr i) = .ok i

/-- The other way for frames: bytes that decode to a wire command are that command's bytes, each bit of them. -/
def Obligations.DecodedFrameIsItsEncoding : Prop :=
  ∀ (bs : List Byte) (i : Instr), decodeInstr (.frame bs) = .ok i → encodeInstr i = .frame bs

/-- The request word's fields, read as numbers, and the operation codes (R83, R84): the operation is selected by
`OP = w mod 16` alone, and a field it does not read has no influence. -/
def Obligations.RequestFieldsAndCodes : Prop :=
  ∀ (w : ReqWord) (bs : List Byte),
    let op := w.toNat % 2 ^ 4
    let a : Byte := BitVec.ofNat 8 (w.toNat / 2 ^ 8)
    let c : Byte := BitVec.ofNat 8 (w.toNat / 2 ^ 16)
    let n : Byte := BitVec.ofNat 8 (w.toNat / 2 ^ 24)
    let t : Ticks := BitVec.ofNat 32 (w.toNat / 2 ^ 32)
    (op = 1 → decodeInstr (.request w bs) = .ok (.encode a c)) ∧
    (op = 2 → decodeInstr (.request w bs) = .ok (.encodeExt a c n)) ∧
    (op = 3 → decodeInstr (.request w bs) = .ok (.decode bs)) ∧
    (op = 4 → decodeInstr (.request w bs) = .ok .send) ∧
    (op = 5 → decodeInstr (.request w bs) = .ok (.awaitSingle t)) ∧
    (op = 6 → decodeInstr (.request w bs) = .ok (.awaitAll t)) ∧
    (op = 0 ∨ 7 ≤ op → decodeInstr (.request w bs) = .error (.illegalOp (BitVec.ofNat 4 op)))

/-! ### The step -/

/-- When the next input carries the code of an instruction, the step is `exec` of that instruction with the input taken off
the pending ones. -/
def Obligations.StepRunsTheDecodedInstruction : Prop :=
  ∀ (s : State) (x : Input) (xs : List Input) (code : Code) (i : Instr),
    s.pending = x :: xs → inputCode x = some code → decodeInstr code = .ok i →
    step s = exec i { s with pending := xs }

/-- Any instruction, presented as the next input by its own code, is what the step runs. -/
def Obligations.PresentedInstructionRuns : Prop :=
  ∀ (i : Instr) (s : State), step (presentCode (encodeInstr i) s) = exec i s

/-- With no input pending the block waits and keeps all its state. The model's choice: assumption 4. -/
def Obligations.WaitsWithoutInput : Prop :=
  ∀ s : State, s.pending = [] → step s = .next s

/-- Where the step stops: never with a fault, and with a refusal exactly on a TX_DONE or TX_FAIL that does not occur (the
block neither halted nor in TX). The refusal as the form of "does not occur" is the model's: assumption 7. -/
def Obligations.StepStopsOnlyOnLineReports : Prop :=
  ∀ s : State,
    (∀ r, step s ≠ .fault r) ∧
    ((∃ r, step s = .refused r) ↔
      s.faultCode = .noFault ∧ s.state ≠ .tx ∧
        ∃ xs, s.pending = .txDone :: xs ∨ s.pending = .txFail :: xs)

/-- Every instruction has a next state in every state of the block: one mode, every request allowed at any time (R214). -/
def Obligations.EveryInstructionCompletes : Prop :=
  ∀ (i : Instr) (s : State), ∃ t, exec i s = .next t

/-! ### The codec -/

/-- ENCODE (R101): the frame into `TXBUF[0..4]`, bytes 5 to 8 kept, `TXLEN = 5`, FRAME_READY, nothing else; OVERLAP while
busy. -/
def Obligations.EncodeBuildsBasicFrame : Prop :=
  ∀ (a c : Byte) (s : State), s.faultCode = .noFault →
    (s.state = .idle →
      exec (.encode a c) s = .next { s with
        txbuf := #v[0x02#8, a, c, 0x03#8, 0x02#8 + a + c + 0x03#8,
          s.txbuf[5], s.txbuf[6], s.txbuf[7], s.txbuf[8]]
        txlen := 5#4
        result := .frameReady }) ∧
    (s.state ≠ .idle →
      ∃ t, exec (.encode a c) s = .next t ∧ t.faultCode = .overlap ∧ SameButFault s t)

/-- ENCODE_EXT (R102): the frame into `TXBUF[0..8]`, `TXLEN = 9`, FRAME_READY, nothing else; OVERLAP while busy. -/
def Obligations.EncodeExtBuildsExtendedFrame : Prop :=
  ∀ (a c n : Byte) (s : State), s.faultCode = .noFault →
    (s.state = .idle →
      exec (.encodeExt a c n) s = .next { s with
        txbuf := #v[0x02#8, a, c, n, 0x00#8, 0x00#8, 0x00#8, 0x03#8, 0x02#8 + a + c + n + 0x03#8]
        txlen := 9#4
        result := .frameReady }) ∧
    (s.state ≠ .idle →
      ∃ t, exec (.encodeExt a c n) s = .next t ∧ t.faultCode = .overlap ∧ SameButFault s t)

/-- DECODE (R103): RESULT alone is written, with the verdict the checks give in the order length, markers, checksum; the
checksum is over all bytes but the last, and LEN, read by `readLen` (its form: assumption 21), is the number of bytes given.
OVERLAP while busy. -/
def Obligations.DecodeReportsFirstFailedCheck : Prop :=
  ∀ (bs : List Byte) (s : State), s.faultCode = .noFault →
    (s.state = .idle →
      ∃ v, exec (.decode bs) s = .next { s with result := .verdict v } ∧
        (bs.length ≠ 5 ∧ bs.length ≠ 9 → v = .malformedFrame) ∧
        (bs.length = 5 ∨ bs.length = 9 →
          (bs[0]? ≠ some 0x02#8 ∨ bs[bs.length - 2]? ≠ some 0x03#8 → v = .malformedFrame) ∧
          (bs[0]? = some 0x02#8 → bs[bs.length - 2]? = some 0x03#8 →
            (bs.getLast? ≠ some (BitVec.ofNat 8 (bs.dropLast.map BitVec.toNat).sum) →
              v = .checksumMismatch) ∧
            (bs.getLast? = some (BitVec.ofNat 8 (bs.dropLast.map BitVec.toNat).sum) →
              ∃ f, v = .decoded f ∧ readLen f = bs.length ∧ bs[1]? = some f.addr ∧ bs[2]? = some f.cmd ∧
                (bs.length = 5 → f.field = none) ∧
                (bs.length = 9 → ∃ x, f.field = some x ∧ bs[3]? = some x.byte0 ∧
                  bs[4]? = some x.byte1 ∧ bs[5]? = some x.byte2 ∧ bs[6]? = some x.byte3))))) ∧
    (s.state ≠ .idle →
      ∃ t, exec (.decode bs) s = .next t ∧ t.faultCode = .overlap ∧ SameButFault s t)

/-- A failed decode carries no data (R104): two rejected byte sequences of one KIND leave the same state, and only RESULT
has changed. -/
def Obligations.RejectedBytesLeaveNoTrace : Prop :=
  ∀ (bs cs : List Byte) (s t u : State), s.state = .idle → s.faultCode = .noFault →
    exec (.decode bs) s = .next t → exec (.decode cs) s = .next u →
    resultKind t.result ≠ 2#4 → resultKind t.result = resultKind u.result →
    t = u ∧ t = { s with result := t.result }

/-- The round-trip law (R108) on the machine: the frame an encoder leaves, given to DECODE, gives back the operands, for all
of them, with LEN 5 or 9 (read by `readLen`, its form: assumption 21). -/
def Obligations.EncodedFramesDecodeToTheirFields : Prop :=
  ∀ (a c n : Byte) (s : State), s.state = .idle → s.faultCode = .noFault →
    (∃ t, exec (.encode a c) s = .next t ∧
      exec (.decode (t.txbuf.toList.take t.txlen.toNat)) t =
        .next { t with result := .verdict (.decoded ⟨a, c, none⟩) } ∧
      readLen ⟨a, c, none⟩ = 5) ∧
    (∃ t, exec (.encodeExt a c n) s = .next t ∧
      exec (.decode (t.txbuf.toList.take t.txlen.toNat)) t =
        .next { t with result := .verdict (.decoded ⟨a, c, some ⟨n, 0#8, 0#8, 0#8⟩⟩) } ∧
      readLen ⟨a, c, some ⟨n, 0#8, 0#8, 0#8⟩⟩ = 9)

/-- One changed byte of an accepted frame is always noticed (R110, derived there): a changed marker is MALFORMED_FRAME, any
other changed byte CHECKSUM_MISMATCH. -/
def Obligations.OneByteErrorIsCaught : Prop :=
  ∀ (bs : List Byte) (f : FrameFields) (i : Nat) (b : Byte),
    verdict bs = .decoded f → i < bs.length → bs[i]? ≠ some b →
    verdict (bs.set i b) =
      if i = 0 ∨ i = bs.length - 2 then .malformedFrame else .checksumMismatch

/-- What the checksum cannot see (R110, derived there): bytes between the markers changed or swapped so that their sum stays
the same mod 256 are accepted, with the changed values. -/
def Obligations.CompensatingErrorsPass : Prop :=
  ∀ (m m' : List Byte) (k : Byte) (f : FrameFields),
    verdict ([0x02#8] ++ m ++ [0x03#8, k]) = .decoded f → m'.length = m.length →
    (m'.map BitVec.toNat).sum % 256 = (m.map BitVec.toNat).sum % 256 →
    ∃ g, verdict ([0x02#8] ++ m' ++ [0x03#8, k]) = .decoded g ∧
      m' = [g.addr, g.cmd] ++
        (match g.field with
          | none => []
          | some x => [x.byte0, x.byte1, x.byte2, x.byte3])

/-- The views of a status reply (R74, R105, R106): the flags are bytes 3 and 5 of the 9-byte reply, 0x01 TRUE, 0x00 FALSE,
anything else UNRECOGNISED; busy takes precedence; a 5-byte frame has no flags. -/
def Obligations.StatusReplyViews : Prop :=
  (∀ a c b0 b1 b2 b3 : Byte,
    let v := verdict [0x02#8, a, c, b0, b1, b2, b3, 0x03#8, 0x02#8 + a + c + b0 + b1 + b2 + b3 + 0x03#8]
    doorOpen v = some (if b0 = 1#8 then .isTrue else if b0 = 0#8 then .isFalse else .unrecognised) ∧
    busyFlag v = some (if b2 = 1#8 then .isTrue else if b2 = 0#8 then .isFalse else .unrecognised) ∧
    deviceStatus v = some
      (if b2 = 1#8 then .busy
        else if b2 = 0#8 ∧ b0 = 1#8 then .opened
        else if b2 = 0#8 ∧ b0 = 0#8 then .closed
        else .unrecognised)) ∧
  (∀ a c : Byte,
    let v := verdict [0x02#8, a, c, 0x03#8, 0x02#8 + a + c + 0x03#8]
    doorOpen v = none ∧ busyFlag v = none ∧ deviceStatus v = none)

/-- The hex view (R107): byte by byte in index order the two lower-case hex digits of its value, the higher first, and
nothing else; so it loses nothing: different byte sequences have different views. -/
def Obligations.HexViewIsFaithful : Prop :=
  let digits := ['0', '1', '2', '3', '4', '5', '6', '7', '8', '9', 'a', 'b', 'c', 'd', 'e', 'f']
  hex [] = "" ∧
  (∀ (b : Byte) (bs : List Byte), ∃ high low,
    digits[b.toNat / 16]? = some high ∧ digits[b.toNat % 16]? = some low ∧
    (hex (b :: bs)).toList = high :: low :: (hex bs).toList) ∧
  ∀ bs cs : List Byte, hex bs = hex cs → bs = cs

/-! ### The transport -/

/-- SEND (R131): the frame of `TXBUF` is handed to the line (the model's field `line`, assumption 5), TX begins, the capture
window of an earlier send closes and its chunks are dropped; TX_EMPTY with no frame; OVERLAP while busy. -/
def Obligations.SendStartsTransmission : Prop :=
  ∀ s : State, s.faultCode = .noFault →
    (s.state = .idle → s.txlen ≠ 0#4 →
      exec .send s = .next { s with
        rxq := [], sent := false, state := .tx
        line := s.txbuf.toList.take s.txlen.toNat }) ∧
    (s.state = .idle → s.txlen = 0#4 →
      ∃ t, exec .send s = .next t ∧ t.faultCode = .txEmpty ∧ SameButFault s t) ∧
    (s.state ≠ .idle →
      ∃ t, exec .send s = .next t ∧ t.faultCode = .overlap ∧ SameButFault s t)

/-- TX_DONE (R132): in TX the send ends with ACK and the capture window opens, every byte of the frame having left (recorded
in the model's fields `line` and `bus`, assumption 5); outside TX it does not occur, which is that there is no next state
(assumption 7). -/
def Obligations.TxDoneAcknowledges : Prop :=
  ∀ (s : State) (xs : List Input), s.pending = .txDone :: xs →
    (BlockInv s → s.faultCode = .noFault → s.state = .tx →
      step s = .next { s with
        pending := xs, state := .idle, sent := true, result := .ack
        line := [], bus := s.bus ++ [s.txbuf.toList.take s.txlen.toNat] }) ∧
    (s.faultCode = .noFault → s.state ≠ .tx → ∀ t, step s ≠ .next t)

/-- TX_FAIL (R133): in TX the send ends with IO_ERROR and no capture window, the frame staying in `TXBUF`; some first bytes
of the frame, from none to all, have left (recorded in the model's fields `line` and `bus`, assumptions 5 and 6). Outside TX
it does not occur, which is that there is no next state (assumption 7). -/
def Obligations.TxFailReportsIoError : Prop :=
  ∀ (s : State) (xs : List Input), s.pending = .txFail :: xs →
    (BlockInv s → s.faultCode = .noFault → s.state = .tx →
      ∃ n, n ≤ s.txlen.toNat ∧
        step s = .next { s with
          pending := xs, state := .idle, sent := false, result := .ioError
          line := [], bus := s.bus ++ [s.txbuf.toList.take n], freeCount := s.freeCount + 1 }) ∧
    (s.faultCode = .noFault → s.state ≠ .tx → ∀ t, step s ≠ .next t)

/-- RX_CHUNK (R134, R136): any chunk, whatever its bytes, is queued inside the capture window, ends a single wait with its
verdict, and leaves no trace elsewhere. -/
def Obligations.ChunksAreCapturedInTheWindowOnly : Prop :=
  ∀ (s : State) (c : Chunk) (xs : List Input), s.pending = .rxChunk c :: xs →
    step s = .next
      (if s.faultCode ≠ .noFault then { s with pending := xs }
      else match s.state with
        | .tx => { s with pending := xs }
        | .awaitSingle => { s with
            pending := xs, result := .response ⟨c, verdict c.bytes⟩
            state := .idle, sent := false, rxq := [] }
        | .awaitAll => { s with pending := xs, rxq := s.rxq ++ [c] }
        | .idle =>
          if s.sent = true then { s with pending := xs, rxq := s.rxq ++ [c] }
          else { s with pending := xs })

/-- AWAIT_SINGLE (R135, R140): a queued chunk ends it at once, the first of them with its verdict; with none, T = 0 is
NO_RESPONSE at once and any other T starts the wait. AWAIT_NO_SEND with no send to answer; OVERLAP while busy. -/
def Obligations.AwaitSingleStartsOrEnds : Prop :=
  ∀ (t : Ticks) (s : State), s.faultCode = .noFault →
    (s.state = .idle → s.sent = true →
      exec (.awaitSingle t) s = .next
        (match s.rxq with
          | c :: _ => { s with
              tlimit := t, timer := 0#32, result := .response ⟨c, verdict c.bytes⟩
              state := .idle, sent := false, rxq := [] }
          | [] =>
            if t = 0#32 then { s with
              tlimit := t, timer := 0#32, result := .noResponse
              state := .idle, sent := false, rxq := [] }
            else { s with tlimit := t, timer := 0#32, state := .awaitSingle })) ∧
    (s.state = .idle → s.sent = false →
      ∃ u, exec (.awaitSingle t) s = .next u ∧ u.faultCode = .awaitNoSend ∧ SameButFault s u) ∧
    (s.state ≠ .idle →
      ∃ u, exec (.awaitSingle t) s = .next u ∧ u.faultCode = .overlap ∧ SameButFault s u)

/-- AWAIT_ALL (R138, R139, R140): T = 0 returns what is queued, any other T starts the window with the queued chunks kept.
AWAIT_NO_SEND with no send to answer; OVERLAP while busy. -/
def Obligations.AwaitAllStartsOrEnds : Prop :=
  ∀ (t : Ticks) (s : State), s.faultCode = .noFault →
    (s.state = .idle → s.sent = true →
      exec (.awaitAll t) s = .next
        (if t = 0#32 then { s with
            tlimit := t, timer := 0#32, state := .idle, sent := false, rxq := []
            result := match s.rxq with
              | [] => .noResponse
              | c :: cs => .responses ⟨c, verdict c.bytes⟩ (cs.map fun d => ⟨d, verdict d.bytes⟩) }
        else { s with tlimit := t, timer := 0#32, state := .awaitAll })) ∧
    (s.state = .idle → s.sent = false →
      ∃ u, exec (.awaitAll t) s = .next u ∧ u.faultCode = .awaitNoSend ∧ SameButFault s u) ∧
    (s.state ≠ .idle →
      ∃ u, exec (.awaitAll t) s = .next u ∧ u.faultCode = .overlap ∧ SameButFault s u)

/-- TICK (R137, R139, R140): outside a wait, or halted, nothing; in a wait `TIMER` grows by one, and where the new value is
`TLIMIT` the wait ends. The sum is one of 32 bits, which differs from R137's in states no run reaches (assumption 11). -/
def Obligations.TickCountsAndEndsWaits : Prop :=
  ∀ (s : State) (xs : List Input), s.pending = .tick :: xs →
    (s.faultCode ≠ .noFault ∨ s.state = .idle ∨ s.state = .tx → step s = .next { s with pending := xs }) ∧
    (s.faultCode = .noFault → s.state = .awaitSingle ∨ s.state = .awaitAll → s.timer + 1#32 ≠ s.tlimit →
      step s = .next { s with pending := xs, timer := s.timer + 1#32 }) ∧
    (s.faultCode = .noFault → s.state = .awaitSingle → s.timer + 1#32 = s.tlimit →
      step s = .next { s with
        pending := xs, timer := s.timer + 1#32, result := .noResponse
        state := .idle, sent := false, rxq := [] }) ∧
    (s.faultCode = .noFault → s.state = .awaitAll → s.timer + 1#32 = s.tlimit →
      step s = .next { s with
        pending := xs, timer := s.timer + 1#32, state := .idle, sent := false, rxq := []
        result := match s.rxq with
          | [] => .noResponse
          | c :: cs => .responses ⟨c, verdict c.bytes⟩ (cs.map fun d => ⟨d, verdict d.bytes⟩) })

/-- A single wait with no chunk ends after exactly the ticks it has left, with NO_RESPONSE (R137, R143). -/
def Obligations.SingleWaitTimesOut : Prop :=
  ∀ (s : State) (k : Nat) (xs : List Input),
    s.state = .awaitSingle → s.faultCode = .noFault → s.timer < s.tlimit →
    s.timer.toNat + k = s.tlimit.toNat → s.pending = List.replicate k .tick ++ xs →
    Sys2Proof.core.run k s = .next { s with
      pending := xs, timer := s.tlimit, result := .noResponse
      state := .idle, sent := false, rxq := [] }

/-- A chunk that comes before a single wait's last tick ends it, with its own verdict, after the ticks taken so far (R136,
R137). -/
def Obligations.SingleWaitReturnsFirstChunk : Prop :=
  ∀ (s : State) (k : Nat) (c : Chunk) (xs : List Input),
    s.state = .awaitSingle → s.faultCode = .noFault →
    s.timer.toNat + k < s.tlimit.toNat → s.pending = List.replicate k .tick ++ .rxChunk c :: xs →
    Sys2Proof.core.run (k + 1) s = .next { s with
      pending := xs, timer := BitVec.ofNat 32 (s.timer.toNat + k), result := .response ⟨c, verdict c.bytes⟩
      state := .idle, sent := false, rxq := [] }

/-- A gather-all wait lasts exactly its window, and returns every chunk captured before its last tick in arrival order, each
with its own verdict, whatever the order in which chunks and ticks come (R60, R137 to R140). -/
def Obligations.GatherWindowReturnsEveryChunkInOrder : Prop :=
  ∀ (s : State) (ys xs : List Input),
    s.state = .awaitAll → s.faultCode = .noFault → s.timer < s.tlimit →
    (∀ y ∈ ys, y = .tick ∨ ∃ c, y = .rxChunk c) →
    s.timer.toNat + ys.count .tick + 1 = s.tlimit.toNat → s.pending = ys ++ .tick :: xs →
    Sys2Proof.core.run (ys.length + 1) s = .next { s with
      pending := xs, timer := s.tlimit, state := .idle, sent := false, rxq := []
      result := match s.rxq ++ ys.filterMap inputChunk with
        | [] => .noResponse
        | c :: cs => .responses ⟨c, verdict c.bytes⟩ (cs.map fun d => ⟨d, verdict d.bytes⟩) }

/-! ### Wire commands -/

/-- A wire command that reaches the block inside the capture window, before a wait or during AWAIT_ALL, is captured as the
chunk of its bytes and nothing else changes (R75 to R79 with R134; that this is the command's meaning at the block is
assumption 3). -/
def Obligations.WireCommandsAreCaptured : Prop :=
  ∀ (a n k : Byte) (s : State), s.faultCode = .noFault →
    (s.state = .idle ∧ s.sent = true ∨ s.state = .awaitAll) →
    exec (.getDoorStatus a k) s =
      .next { s with rxq := s.rxq ++ [⟨0x02#8, [a, 0x30#8, 0x03#8, k]⟩] } ∧
    exec (.unlock a k) s =
      .next { s with rxq := s.rxq ++ [⟨0x02#8, [a, 0x31#8, 0x03#8, k]⟩] } ∧
    exec (.getBusStatus a k) s =
      .next { s with rxq := s.rxq ++ [⟨0x02#8, [a, 0x32#8, 0x03#8, k]⟩] } ∧
    exec (.broadcastRecruit a n k) s =
      .next { s with rxq := s.rxq ++ [⟨0x02#8, [a, 0x80#8, n, 0#8, 0#8, 0#8, 0x03#8, k]⟩] } ∧
    exec (.assignNewAddress a n k) s =
      .next { s with rxq := s.rxq ++ [⟨0x02#8, [a, 0x81#8, n, 0#8, 0#8, 0#8, 0x03#8, k]⟩] }

/-- A well-formed wire command that reaches the block during a single wait ends it with the verdict DECODED of its own
address and command byte, NEWADDR in the first byte of FIELD (R136 with R103; assumption 3). -/
def Obligations.WireCommandsEndASingleWait : Prop :=
  ∀ (i : Instr) (s : State) (c : Chunk), WellFormed i → encodeInstr i = .frame c.bytes →
    s.faultCode = .noFault → s.state = .awaitSingle →
    ∃ f, exec i s = .next { s with
        result := .response ⟨c, .decoded f⟩, state := .idle, sent := false, rxq := [] } ∧
      c.bytes[1]? = some f.addr ∧ c.bytes[2]? = some f.cmd ∧
      (c.bytes.length = 5 → f.field = none) ∧
      (c.bytes.length = 9 → ∃ n, c.bytes[3]? = some n ∧ f.field = some ⟨n, 0#8, 0#8, 0#8⟩)

/-- A wire command that reaches the block while it is halted, transmitting, or idle with no send to answer leaves no trace
(R134, R61; assumption 3). -/
def Obligations.WireCommandsElsewhereAreDiscarded : Prop :=
  ∀ (i : Instr) (s : State) (bs : List Byte), encodeInstr i = .frame bs →
    (s.faultCode ≠ .noFault ∨ s.state = .tx ∨ s.state = .idle ∧ s.sent = false) →
    exec i s = .next s

/-- The way out (R63, R75 to R79, R131, R132): the encoder's request, SEND and TX_DONE put the frame on the bus, its five or
nine bytes in index order, and leave ACK and an open capture window. -/
def Obligations.EncodedFramesReachTheBus : Prop :=
  ∀ (a c n : Byte) (s : State) (xs : List Input), s.state = .idle → s.faultCode = .noFault →
    (s.pending = [.request (reqWord 0#32 0#8 c a 1#4) [], .request 4#64 [], .txDone] ++ xs →
      ∃ t, Sys2Proof.core.run 3 s = .next t ∧
        t.bus = s.bus ++ [[0x02#8, a, c, 0x03#8, 0x02#8 + a + c + 0x03#8]] ∧
        t.state = .idle ∧ t.sent = true ∧ t.result = .ack ∧ t.rxq = [] ∧ t.pending = xs) ∧
    (s.pending = [.request (reqWord 0#32 n c a 2#4) [], .request 4#64 [], .txDone] ++ xs →
      ∃ t, Sys2Proof.core.run 3 s = .next t ∧
        t.bus = s.bus ++ [[0x02#8, a, c, n, 0#8, 0#8, 0#8, 0x03#8, 0x02#8 + a + c + n + 0x03#8]] ∧
        t.state = .idle ∧ t.sent = true ∧ t.result = .ack ∧ t.rxq = [] ∧ t.pending = xs)

/-! ### Faults -/

/-- ILLEGAL_OP (R205): a request whose OP is 0x0 or 0x7 to 0xF, in any state of a block not halted. -/
def Obligations.IllegalOpFaultsInAnyState : Prop :=
  ∀ (s : State) (w : ReqWord) (bs : List Byte) (xs : List Input),
    s.pending = .request w bs :: xs → s.faultCode = .noFault →
    (w.toNat % 16 = 0 ∨ 7 ≤ w.toNat % 16) →
    ∃ t, step s = .next t ∧ t.faultCode = .illegalOp ∧ SameButFault s t ∧ t.pending = xs

/-- OVERLAP (R206): any legal request taken while busy; the request does not run. -/
def Obligations.OverlapFaultsWhileBusy : Prop :=
  ∀ (s : State) (w : ReqWord) (bs : List Byte) (xs : List Input),
    s.pending = .request w bs :: xs → s.faultCode = .noFault → s.state ≠ .idle →
    1 ≤ w.toNat % 16 → w.toNat % 16 ≤ 6 →
    ∃ t, step s = .next t ∧ t.faultCode = .overlap ∧ SameButFault s t ∧ t.pending = xs

/-- Priority (R210): halted, then ILLEGAL_OP, then OVERLAP, then TX_EMPTY for SEND and AWAIT_NO_SEND for a wait; each is
raised exactly where no earlier one applies. -/
def Obligations.FaultPriority : Prop :=
  ∀ (s : State) (w : ReqWord) (bs : List Byte) (xs : List Input), s.pending = .request w bs :: xs →
    let op := w.toNat % 16
    ∃ t, step s = .next t ∧
      t.faultCode =
        if s.faultCode ≠ .noFault then s.faultCode
        else if op = 0 ∨ 7 ≤ op then .illegalOp
        else if s.state ≠ .idle then .overlap
        else if op = 4 ∧ s.txlen = 0#4 then .txEmpty
        else if (op = 5 ∨ op = 6) ∧ s.sent = false then .awaitNoSend
        else .noFault

/-- Fault entry (R209): a step that raises a fault is a request's, and it leaves the rest of `S` as it was. A halted block
ignores every input but reset. -/
def Obligations.FaultEntryAndHalt : Prop :=
  ∀ (s t : State) (x : Input) (xs : List Input), s.pending = x :: xs → step s = .next t →
    (s.faultCode = .noFault → t.faultCode ≠ .noFault → SameButFault s t ∧ (inputOp x).isSome) ∧
    (s.faultCode ≠ .noFault → x ≠ .reset → t = { s with pending := xs })

/-- A transmission that a fault or reset interrupts has put some first bytes of its frame on the bus, and nothing else has
left (R209, R230). The record of it in the model's fields `line` and `bus`, and that it is closed in that same step, are the
model's choice: assumptions 5, 6 and 20. -/
def Obligations.InterruptedTransmissionLeavesFirstBytes : Prop :=
  ∀ (s t : State) (x : Input) (xs : List Input), s.pending = x :: xs → step s = .next t →
    x = .reset ∨ s.faultCode = .noFault ∧ t.faultCode ≠ .noFault →
    t.line = [] ∧ (s.line = [] → t.bus = s.bus) ∧
      (s.line ≠ [] → ∃ b, b <+: s.line ∧ t.bus = s.bus ++ [b])

/-- A halt lasts until reset (R209, R211): over any number of steps without a reset among the pending inputs, a halted block
keeps all of `S`, and the run never stops; that a pending TX_DONE or TX_FAIL does not stop it is assumption 7. -/
def Obligations.HaltLastsUntilReset : Prop :=
  ∀ (k : Nat) (s : State), s.faultCode ≠ .noFault → .reset ∉ s.pending →
    ∃ t, Sys2Proof.core.run k s = .next t ∧ SameBlock s t

/-! ### Rules of the whole machine -/

/-- The invariant holds after reset. -/
def Obligations.ResetStateMeetsInvariant : Prop := BlockInv State.reset

/-- Every step keeps the invariant (R23 to R28, R109, R136): TXLEN is 0, 5 or 9 and the frame in TXBUF is one DECODE accepts;
each mode's SENT, RXQ and TIMER are as its rules say; every returned chunk stands with its own verdict; and only first bytes
of frames DECODE accepts ever leave on the bus (the last part about the model's own fields, assumption 5). -/
def Obligations.StepKeepsInvariant : Prop :=
  ∀ s t : State, BlockInv s → step s = .next t → BlockInv t

/-- Only ENCODE and ENCODE_EXT, and reset, write `TXBUF` and `TXLEN` (R25); an encoded frame stays until the next one or
reset (R207). -/
def Obligations.OnlyEncodersWriteTxbuf : Prop :=
  ∀ (s t : State) (x : Input) (xs : List Input), s.pending = x :: xs → step s = .next t →
    (t.txbuf ≠ s.txbuf ∨ t.txlen ≠ s.txlen →
      x = .reset ∨ inputOp x = some 1 ∧ t.txlen = 5#4 ∨ inputOp x = some 2 ∧ t.txlen = 9#4) ∧
    (s.txlen ≠ 0#4 → t.txlen = 0#4 → x = .reset)

/-- `SENT` (R24): set only by the TX_DONE of a send, cleared only by the next SEND, the completion of a wait
(on a chunk or tick in AWAIT_SINGLE, on a tick in AWAIT_ALL, or at once on a wait request), or reset. -/
def Obligations.SentFollowsAckAndWait : Prop :=
  ∀ (s t : State) (x : Input) (xs : List Input), BlockInv s → s.pending = x :: xs → step s = .next t →
    (s.sent = false → t.sent = true → x = .txDone ∧ s.state = .tx ∧ t.result = .ack) ∧
    (s.sent = true → t.sent = false →
      x = .reset ∨ inputOp x = some 4 ∧ t.state = .tx ∨
      (s.state = .awaitSingle ∧ ((inputChunk x).isSome ∨ x = .tick) ∨ s.state = .awaitAll ∧ x = .tick ∨
          s.state = .idle ∧ (inputOp x = some 5 ∨ inputOp x = some 6)) ∧
        t.state = .idle ∧ t.rxq = [] ∧
        (resultKind t.result = 7#4 ∨ resultKind t.result = 8#4 ∨ resultKind t.result = 9#4))

/-- `STATE` (R23): what enters and leaves each of its values. -/
def Obligations.ModeChangesOnlyAsTabled : Prop :=
  ∀ (s t : State) (x : Input) (xs : List Input), s.pending = x :: xs → step s = .next t → x ≠ .reset →
    t.state ≠ s.state →
    (s.state = .idle ∧
      (t.state = .tx ∧ inputOp x = some 4 ∨ t.state = .awaitSingle ∧ inputOp x = some 5 ∨
        t.state = .awaitAll ∧ inputOp x = some 6)) ∨
    (s.state = .tx ∧ t.state = .idle ∧ (x = .txDone ∨ x = .txFail)) ∨
    (s.state = .awaitSingle ∧ t.state = .idle ∧ ((inputChunk x).isSome ∨ x = .tick)) ∨
    (s.state = .awaitAll ∧ t.state = .idle ∧ x = .tick)

/-- `TIMER` and `TLIMIT` (R28): a tick of a wait adds one to `TIMER`, without wrapping; a wait request sets `TLIMIT` to its
`T`, bits 63:32 of the word, and `TIMER` to 0; reset clears both; nothing else writes either. -/
def Obligations.TimerWrittenByWaitsOnly : Prop :=
  ∀ (s t : State) (x : Input) (xs : List Input), BlockInv s → s.pending = x :: xs → step s = .next t →
    t.timer ≠ s.timer ∨ t.tlimit ≠ s.tlimit →
    (x = .reset ∧ t.timer = 0#32 ∧ t.tlimit = 0#32) ∨
    (x = .tick ∧ (s.state = .awaitSingle ∨ s.state = .awaitAll) ∧ t.tlimit = s.tlimit ∧
      t.timer.toNat = s.timer.toNat + 1 ∧ t.timer ≤ t.tlimit) ∨
    ((inputOp x = some 5 ∨ inputOp x = some 6) ∧ s.state = .idle ∧ t.timer = 0#32 ∧
      ∃ w bs, x = .request w bs ∧ t.tlimit = BitVec.ofNat 32 (w.toNat / 2 ^ 32))

/-- Failure of a run is exactly one of the four misuses (R205 to R208): from a state that is not failed, a request that is
legal, taken while idle, with a frame where it is SEND and with a send to answer where it is a wait, does not fail, and no
other input fails at all. -/
def Obligations.CorrectUseNeverFails : Prop :=
  ∀ (s t : State) (x : Input) (xs : List Input), s.pending = x :: xs → step s = .next t → ¬ Failed s →
    (∀ op, inputOp x = some op → 1 ≤ op ∧ op ≤ 6 ∧ s.state = .idle ∧
      (op = 4 → s.txlen ≠ 0#4) ∧ (op = 5 ∨ op = 6 → s.sent = true)) →
    ¬ Failed t

/-! ### Reset and the host's view -/

/-- The reset values of R33: every field of `S`, `STATUS`, and no byte of `TXBUF` readable. -/
def Obligations.ResetValues : Prop :=
  State.reset.state = .idle ∧ State.reset.sent = false ∧ State.reset.txlen = 0#4 ∧ State.reset.rxq = [] ∧
  State.reset.timer = 0#32 ∧ State.reset.tlimit = 0#32 ∧ State.reset.result = .noResult ∧
  State.reset.faultCode = .noFault ∧ readStatus State.reset = 0x0000#16 ∧
  ∀ i, readTxbuf i State.reset = .error .noValue

/-- Reset (R230, R33) in any state, halted or not: every field of `S` at its reset value, `STATUS` 0x0000, no byte of `TXBUF`
readable. -/
def Obligations.ResetFromAnyState : Prop :=
  ∀ (s : State) (xs : List Input), s.pending = .reset :: xs →
    ∃ t, step s = .next t ∧ t.state = .idle ∧ t.sent = false ∧ t.txlen = 0#4 ∧ t.rxq = [] ∧
      t.timer = 0#32 ∧ t.tlimit = 0#32 ∧ t.result = .noResult ∧ t.faultCode = .noFault ∧
      readStatus t = 0x0000#16 ∧ ∀ i, readTxbuf i t = .error .noValue

/-- `STATUS` (R30): the fields at their places, with the codes of R23, R27 and R29, and legal values under the invariant. -/
def Obligations.StatusWordFields : Prop :=
  ∀ s : State,
    (readStatus s).extractLsb' 0 2 = (match s.state with
      | .idle => 0#2
      | .tx => 1#2
      | .awaitSingle => 2#2
      | .awaitAll => 3#2) ∧
    (readStatus s).getLsbD 2 = s.sent ∧
    ((readStatus s).getLsbD 3 = true ↔ s.state ≠ .idle) ∧
    (readStatus s).extractLsb' 4 4 = (match s.faultCode with
      | .noFault => 0#4
      | .illegalOp => 1#4
      | .overlap => 2#4
      | .txEmpty => 3#4
      | .awaitNoSend => 4#4) ∧
    (readStatus s).extractLsb' 8 4 = (match s.result with
      | .noResult => 0#4
      | .frameReady => 1#4
      | .verdict (.decoded _) => 2#4
      | .verdict .malformedFrame => 3#4
      | .verdict .checksumMismatch => 4#4
      | .ack => 5#4
      | .ioError => 6#4
      | .response _ => 7#4
      | .responses _ _ => 8#4
      | .noResponse => 9#4) ∧
    (readStatus s).extractLsb' 12 4 = s.txlen ∧
    (BlockInv s → (readStatus s).extractLsb' 12 4 ∈ [0#4, 5#4, 9#4])

/-- The host reads exactly the bytes of the frame (R25, R218): each byte of `TXBUF[0..TXLEN-1]`, and the model's fault
`noValue` beyond (R6). -/
def Obligations.HostReadsTheFrameOnly : Prop :=
  ∀ (s : State) (i : Nat), BlockInv s →
    (∀ h : i < 9, i < s.txlen.toNat → readTxbuf i s = .ok s.txbuf[i]) ∧
    (s.txlen.toNat ≤ i → readTxbuf i s = .error .noValue)

/-! ### Host sequences -/

/-- Each boundary call sends its frame (R172 to R176): the host's two turns and TX_DONE, from an idle block, put the call's
bytes on the bus and leave the wait, if there is one, to issue. -/
def Obligations.CallsSendTheirFrame : Prop :=
  ∀ (p : Config.Params) (q : HostCall) (s : State), s.state = .idle → s.faultCode = .noFault →
    ∃ k t u, callTurn .host (beginCall p q) s = some (k, t) ∧
      ∃ k' t', callTurn .host k t = some (k', t') ∧ callTurn (.outside .txDone) k' t' = some (k', u) ∧
        u.result = .ack ∧ u.sent = true ∧
        match q with
        | .sendRaw a c =>
          u.bus = s.bus ++ [[0x02#8, a, c, 0x03#8, 0x02#8 + a + c + 0x03#8]] ∧
            k'.rest = [.awaitSingle p.tSingle]
        | .getSingleStatus a =>
          u.bus = s.bus ++ [[0x02#8, a, 0x30#8, 0x03#8, 0x35#8 + a]] ∧
            k'.rest = [.awaitSingle p.tSingle]
        | .getBusStatus =>
          u.bus = s.bus ++ [[0x02#8, 0xF0#8, 0x32#8, 0x03#8, 0x27#8]] ∧ k'.rest = [.awaitAll p.tAll]
        | .assignAddress o n =>
          u.bus = s.bus ++ [[0x02#8, o, 0x81#8, n, 0#8, 0#8, 0#8, 0x03#8, 0x86#8 + o + n]] ∧
            k'.rest = [.awaitSingle p.tSingle]
        | .beginRecruitment =>
          u.bus = s.bus ++ [[0x02#8, 0xFF#8, 0x80#8, p.recruitNewaddr, 0#8, 0#8, 0#8, 0x03#8,
            0x84#8 + p.recruitNewaddr]] ∧
            k'.rest = match p.recruitAwait with
              | .noWait => []
              | .single => [.awaitSingle p.tSingle]
              | .all => [.awaitAll p.tAll]

/-- Any boundary call whose send fails stops there with the record IOError, whatever turns would follow (R170, R171, R203):
the wait is not issued. -/
def Obligations.CallsStopOnIoError : Prop :=
  ∀ (p : Config.Params) (q : HostCall) (s : State) (ts : List Turn), s.state = .idle → s.faultCode = .noFault →
    ∃ t, runCall (.host :: .host :: .outside .txFail :: ts) (beginCall p q) s =
        some (.failure "IOError", t) ∧
      t.result = .ioError ∧ t.state = .idle ∧ t.sent = false ∧ t.faultCode = .noFault

/-- `getSingleStatus` answered by a chunk (R170, R173): success, the hex of the frame sent, and the chunk with its verdict,
valid or not. -/
def Obligations.SingleStatusCallReturnsTheReply : Prop :=
  ∀ (p : Config.Params) (a : Byte) (c : Chunk) (s : State) (ts : List Turn),
    s.state = .idle → s.faultCode = .noFault → p.tSingle ≠ 0#32 →
    ∃ t, runCall (.host :: .host :: .outside .txDone :: .host :: .outside (.rxChunk c) :: ts)
          (beginCall p (.getSingleStatus a)) s =
        some (.success (hex [0x02#8, a, 0x30#8, 0x03#8, 0x35#8 + a])
          (.response ⟨c, verdict c.bytes⟩), t) ∧
      t.state = .idle ∧ t.sent = false ∧ t.rxq = []

/-- `getBusStatus` with no reply in its window (R170, R174, R204): success with NO_RESPONSE after exactly `T_ALL` ticks. -/
def Obligations.BusStatusCallWithNoReplySucceeds : Prop :=
  ∀ (p : Config.Params) (s : State) (ts : List Turn), s.state = .idle → s.faultCode = .noFault →
    ∃ t, runCall ([.host, .host, .outside .txDone, .host] ++
          List.replicate p.tAll.toNat (.outside .tick) ++ ts) (beginCall p .getBusStatus) s =
        some (.success (hex [0x02#8, 0xF0#8, 0x32#8, 0x03#8, 0x27#8]) .noResponse, t) ∧
      t.timer = p.tAll ∧ t.state = .idle ∧ t.sent = false

/-- `beginRecruitment` with no wait (R176): the record's response is ACK and `SENT` stays 1. -/
def Obligations.RecruitCallWithoutWaitEndsWithAck : Prop :=
  ∀ (p : Config.Params) (s : State) (ts : List Turn), s.state = .idle → s.faultCode = .noFault →
    p.recruitAwait = .noWait →
    ∃ t, runCall (.host :: .host :: .outside .txDone :: ts) (beginCall p .beginRecruitment) s =
        some (.success (hex [0x02#8, 0xFF#8, 0x80#8, p.recruitNewaddr, 0#8, 0#8, 0#8, 0x03#8,
          0x84#8 + p.recruitNewaddr]) .ack, t) ∧
      t.sent = true ∧ t.state = .idle

/-- Another request that lands while a boundary call's send is in progress halts the block, and the call ends with the
record OVERLAP (R170, R171, R177). -/
def Obligations.CallsStopOnOverlap : Prop :=
  ∀ (p : Config.Params) (q : HostCall) (s : State) (w : ReqWord) (bs : List Byte) (ts : List Turn),
    s.state = .idle → s.faultCode = .noFault → 1 ≤ w.toNat % 16 → w.toNat % 16 ≤ 6 →
    ∃ t, runCall (.host :: .host :: .outside (.request w bs) :: ts) (beginCall p q) s =
        some (.failure "OVERLAP", t) ∧
      t.faultCode = .overlap ∧ t.state = .tx

/-- A boundary call needs the block idle and not halted at its start (R177): on a block that is busy or halted the host's
turns change nothing, however many they are, and the call has not begun. That the host waits there is assumption 16. -/
def Obligations.CallsBeginOnAReadyBlockOnly : Prop :=
  ∀ (p : Config.Params) (q : HostCall) (s : State) (n : Nat) (ts : List Turn),
    s.state ≠ .idle ∨ s.faultCode ≠ .noFault →
    runCall (List.replicate n .host ++ ts) (beginCall p q) s = runCall ts (beginCall p q) s

/-! ### The payload of RESULT, and the table's numbers -/

/-- The host reads exactly the payload the current KIND has (R27, R218): the verdict of a DECODE, the pairs of a wait, and of
a verdict the fields where it is DECODED, with FIELD where LEN is 9 and none where LEN is 5. Every other read is the model's
fault `noValue` (R6). The form of the payload and of LEN is assumption 21. -/
def Obligations.HostReadsThePayloadOfTheKindOnly : Prop :=
  (∀ s : State,
    let k := resultKind s.result
    (∀ v, s.result = .verdict v → k = verdictKind v ∧ readVerdict (readResult s) = .ok v) ∧
    (k ≠ 2#4 → k ≠ 3#4 → k ≠ 4#4 → readVerdict (readResult s) = .error .noValue) ∧
    (k = 7#4 → ∃ r, s.result = .response r ∧ readReplies (readResult s) = .ok [r]) ∧
    (k = 8#4 → ∃ r rs, s.result = .responses r rs ∧ readReplies (readResult s) = .ok (r :: rs)) ∧
    (k ≠ 7#4 → k ≠ 8#4 → readReplies (readResult s) = .error .noValue)) ∧
  ∀ v : Verdict,
    (verdictKind v ≠ 2#4 → readFields v = .error .noValue) ∧
    ∀ f, v = .decoded f → verdictKind v = 2#4 ∧ readFields v = .ok f ∧
      (readLen f = 5 ∧ f.field = none ∧ readField f = .error .noValue ∨
        readLen f = 9 ∧ ∃ x, f.field = some x ∧ readField f = .ok x)

/-- The table's numbers (R87): 64 bits are the request word; a frame's number has byte 0 most significant. The number of an
instruction's encoding is read back as that instruction, and placed by `withFetchWord` it is what the step runs (the empty
byte sequence beside a request, and the presenting as an input: assumption 4). -/
def Obligations.TableNumbersAreReadBack : Prop :=
  let number : List Byte → Nat := fun bs => bs.foldl (fun n b => 256 * n + b.toNat) 0
  (∀ w : ReqWord, tableCode 64 w.toNat = .request w []) ∧
  (∀ bs : List Byte, bs.length ≠ 8 → tableCode (8 * bs.length) (number bs) = .frame bs) ∧
  (∀ (i : Instr) (w : ReqWord), encodeInstr i = .request w [] →
    decodeTableWord 64 w.toNat = some i ∧ ∀ s : State, step (s.withFetchWord 64 w.toNat) = exec i s) ∧
  ∀ (i : Instr) (bs : List Byte), encodeInstr i = .frame bs →
    decodeTableWord (8 * bs.length) (number bs) = some i ∧
      ∀ s : State, step (s.withFetchWord (8 * bs.length) (number bs)) = exec i s
end

