-- ==== Sys2Proof/Laws/Operands.lean ====
section
/-!
SUPPORT. Laws of the operand forms: the fields of a built request word (30_encoding.md R83), `sum8` as a sum of bytes
(40_codec.md R100), the bytes of the frames (R70, R71), and `TXBUF` after a frame is written (00_scope.md R7).
-/

namespace Sys2Proof.Machine

/-! ### The request word -/

section reqWord

variable (t : Ticks) (n c a : Byte) (op : BitVec 4)

@[simp] theorem reqOp_reqWord : reqOp (reqWord t n c a op) = op := by
  apply BitVec.eq_of_getLsbD_eq
  intro i hi
  simp only [reqOp, reqWord, BitVec.getLsbD_extractLsb', BitVec.getLsbD_append]
  simp [hi]

@[simp] theorem reqA_reqWord : reqA (reqWord t n c a op) = a := by
  apply BitVec.eq_of_getLsbD_eq
  intro i hi
  simp only [reqA, reqWord, BitVec.getLsbD_extractLsb', BitVec.getLsbD_append]
  have h1 : ¬ 8 + i < 4 := by omega
  have h2 : ¬ 8 + i - 4 < 4 := by omega
  have h3 : 8 + i - 4 - 4 = i := by omega
  simp [hi, h1, h2, h3]

@[simp] theorem reqC_reqWord : reqC (reqWord t n c a op) = c := by
  apply BitVec.eq_of_getLsbD_eq
  intro i hi
  simp only [reqC, reqWord, BitVec.getLsbD_extractLsb', BitVec.getLsbD_append]
  have h1 : ¬ 16 + i < 4 := by omega
  have h2 : ¬ 16 + i - 4 < 4 := by omega
  have h3 : ¬ 16 + i - 4 - 4 < 8 := by omega
  have h4 : 16 + i - 4 - 4 - 8 = i := by omega
  simp [hi, h1, h2, h3, h4]

@[simp] theorem reqN_reqWord : reqN (reqWord t n c a op) = n := by
  apply BitVec.eq_of_getLsbD_eq
  intro i hi
  simp only [reqN, reqWord, BitVec.getLsbD_extractLsb', BitVec.getLsbD_append]
  have h1 : ¬ 24 + i < 4 := by omega
  have h2 : ¬ 24 + i - 4 < 4 := by omega
  have h3 : ¬ 24 + i - 4 - 4 < 8 := by omega
  have h4 : ¬ 24 + i - 4 - 4 - 8 < 8 := by omega
  have h5 : 24 + i - 4 - 4 - 8 - 8 = i := by omega
  simp [hi, h1, h2, h3, h4, h5]

@[simp] theorem reqT_reqWord : reqT (reqWord t n c a op) = t := by
  apply BitVec.eq_of_getLsbD_eq
  intro i hi
  simp only [reqT, reqWord, BitVec.getLsbD_extractLsb', BitVec.getLsbD_append]
  have h1 : ¬ 32 + i < 4 := by omega
  have h2 : ¬ 32 + i - 4 < 4 := by omega
  have h3 : ¬ 32 + i - 4 - 4 < 8 := by omega
  have h4 : ¬ 32 + i - 4 - 4 - 8 < 8 := by omega
  have h5 : ¬ 32 + i - 4 - 4 - 8 - 8 < 8 := by omega
  have h6 : 32 + i - 4 - 4 - 8 - 8 - 8 = i := by omega
  simp [hi, h1, h2, h3, h4, h5, h6]

end reqWord

/-! ### The checksum -/

@[simp] theorem sum8_nil : sum8 [] = 0#8 := rfl

@[simp] theorem sum8_cons (b : Byte) (bs : List Byte) : sum8 (b :: bs) = b + sum8 bs := by
  simp [sum8, BitVec.ofNat_add]

@[simp] theorem sum8_append (bs cs : List Byte) : sum8 (bs ++ cs) = sum8 bs + sum8 cs := by
  induction bs with
  | nil => simp
  | cons b bs ih => simp [ih, BitVec.add_assoc]

/-! ### Frames -/

/-- The five bytes of a basic frame (R70). -/
theorem basicFrame_bytes (a c : Byte) :
    basicFrame a c = [0x02#8, a, c, 0x03#8, sum8 [0x02#8, a, c, 0x03#8]] := rfl

/-- The nine bytes of an extended frame (R71). -/
theorem extFrame_bytes (a c n : Byte) :
    extFrame a c n = [0x02#8, a, c, n, 0x00#8, 0x00#8, 0x00#8, 0x03#8,
      sum8 [0x02#8, a, c, n, 0x00#8, 0x00#8, 0x00#8, 0x03#8]] := rfl

@[simp] theorem basicFrame_length (a c : Byte) : (basicFrame a c).length = 5 := rfl

@[simp] theorem extFrame_length (a c n : Byte) : (extFrame a c n).length = 9 := rfl

/-- A frame ENCODE builds decodes to its fields (R108). -/
theorem verdict_basicFrame (a c : Byte) :
    verdict (basicFrame a c) = .decoded ⟨a, c, none⟩ := by
  simp [basicFrame_bytes, verdict, checkFrame]

/-- A frame ENCODE_EXT builds decodes to its fields (R108). -/
theorem verdict_extFrame (a c n : Byte) :
    verdict (extFrame a c n) = .decoded ⟨a, c, some ⟨n, 0#8, 0#8, 0#8⟩⟩ := by
  simp [extFrame_bytes, verdict, checkFrame]

/-! ### `TXBUF` -/

@[simp] theorem overwrite_get (f : List Byte) (buf : Vector Byte 9) (i : Nat) (h : i < 9) :
    (overwrite f buf)[i] = f.getD i buf[i] := by
  simp [overwrite]

/-- Writing a frame of at most nine bytes puts it at the front of `TXBUF`. -/
theorem take_overwrite (f : List Byte) (buf : Vector Byte 9) (h : f.length ≤ 9) :
    (overwrite f buf).toList.take f.length = f := by
  apply List.ext_getElem
  · simp [h]
  · intro i h1 h2
    simp only [List.getElem_take, Vector.getElem_toList]
    have hi : i < 9 := by omega
    rw [overwrite_get _ _ _ hi]
    simp [h2]

end Sys2Proof.Machine
end

