-- ==== Sys2Proof/Laws/State.lean ====
section
/-!
SUPPORT. One lemma per field per primitive update of Machine/Ops.lean, true by `rfl`, so that no later proof unfolds a record
update; then the same for the conditional updates of the line and of fault entry.
-/

namespace Sys2Proof.Machine

variable (s : State)

/-! `setPending` -/

@[simp] theorem setPending_state (xs : List Input) : (setPending xs s).state = s.state := rfl
@[simp] theorem setPending_sent (xs : List Input) : (setPending xs s).sent = s.sent := rfl
@[simp] theorem setPending_txbuf (xs : List Input) : (setPending xs s).txbuf = s.txbuf := rfl
@[simp] theorem setPending_txlen (xs : List Input) : (setPending xs s).txlen = s.txlen := rfl
@[simp] theorem setPending_rxq (xs : List Input) : (setPending xs s).rxq = s.rxq := rfl
@[simp] theorem setPending_timer (xs : List Input) : (setPending xs s).timer = s.timer := rfl
@[simp] theorem setPending_tlimit (xs : List Input) : (setPending xs s).tlimit = s.tlimit := rfl
@[simp] theorem setPending_result (xs : List Input) : (setPending xs s).result = s.result := rfl
@[simp] theorem setPending_faultCode (xs : List Input) : (setPending xs s).faultCode = s.faultCode := rfl
@[simp] theorem setPending_pending (xs : List Input) : (setPending xs s).pending = xs := rfl
@[simp] theorem setPending_line (xs : List Input) : (setPending xs s).line = s.line := rfl
@[simp] theorem setPending_bus (xs : List Input) : (setPending xs s).bus = s.bus := rfl
@[simp] theorem setPending_freeCount (xs : List Input) : (setPending xs s).freeCount = s.freeCount := rfl
@[simp] theorem setPending_halted (xs : List Input) : (setPending xs s).halted = s.halted := rfl
@[simp] theorem setPending_busy (xs : List Input) : (setPending xs s).busy = s.busy := rfl
@[simp] theorem setPending_frame (xs : List Input) : (setPending xs s).frame = s.frame := rfl

/-! `txWrite` -/

@[simp] theorem txWrite_state (f : List Byte) : (txWrite f s).state = s.state := rfl
@[simp] theorem txWrite_sent (f : List Byte) : (txWrite f s).sent = s.sent := rfl
@[simp] theorem txWrite_txbuf (f : List Byte) : (txWrite f s).txbuf = overwrite f s.txbuf := rfl
@[simp] theorem txWrite_txlen (f : List Byte) : (txWrite f s).txlen = BitVec.ofNat 4 f.length := rfl
@[simp] theorem txWrite_rxq (f : List Byte) : (txWrite f s).rxq = s.rxq := rfl
@[simp] theorem txWrite_timer (f : List Byte) : (txWrite f s).timer = s.timer := rfl
@[simp] theorem txWrite_tlimit (f : List Byte) : (txWrite f s).tlimit = s.tlimit := rfl
@[simp] theorem txWrite_result (f : List Byte) : (txWrite f s).result = s.result := rfl
@[simp] theorem txWrite_faultCode (f : List Byte) : (txWrite f s).faultCode = s.faultCode := rfl
@[simp] theorem txWrite_pending (f : List Byte) : (txWrite f s).pending = s.pending := rfl
@[simp] theorem txWrite_line (f : List Byte) : (txWrite f s).line = s.line := rfl
@[simp] theorem txWrite_bus (f : List Byte) : (txWrite f s).bus = s.bus := rfl
@[simp] theorem txWrite_freeCount (f : List Byte) : (txWrite f s).freeCount = s.freeCount := rfl
@[simp] theorem txWrite_halted (f : List Byte) : (txWrite f s).halted = s.halted := rfl
@[simp] theorem txWrite_busy (f : List Byte) : (txWrite f s).busy = s.busy := rfl

/-! `complete` -/

@[simp] theorem complete_state (r : Result) : (complete r s).state = s.state := rfl
@[simp] theorem complete_sent (r : Result) : (complete r s).sent = s.sent := rfl
@[simp] theorem complete_txbuf (r : Result) : (complete r s).txbuf = s.txbuf := rfl
@[simp] theorem complete_txlen (r : Result) : (complete r s).txlen = s.txlen := rfl
@[simp] theorem complete_rxq (r : Result) : (complete r s).rxq = s.rxq := rfl
@[simp] theorem complete_timer (r : Result) : (complete r s).timer = s.timer := rfl
@[simp] theorem complete_tlimit (r : Result) : (complete r s).tlimit = s.tlimit := rfl
@[simp] theorem complete_result (r : Result) : (complete r s).result = r := rfl
@[simp] theorem complete_faultCode (r : Result) : (complete r s).faultCode = s.faultCode := rfl
@[simp] theorem complete_pending (r : Result) : (complete r s).pending = s.pending := rfl
@[simp] theorem complete_line (r : Result) : (complete r s).line = s.line := rfl
@[simp] theorem complete_bus (r : Result) : (complete r s).bus = s.bus := rfl
@[simp] theorem complete_freeCount (r : Result) : (complete r s).freeCount = s.freeCount := rfl
@[simp] theorem complete_halted (r : Result) : (complete r s).halted = s.halted := rfl
@[simp] theorem complete_busy (r : Result) : (complete r s).busy = s.busy := rfl
@[simp] theorem complete_frame (r : Result) : (complete r s).frame = s.frame := rfl

/-! `enqueue` -/

@[simp] theorem enqueue_state (c : Chunk) : (enqueue c s).state = s.state := rfl
@[simp] theorem enqueue_sent (c : Chunk) : (enqueue c s).sent = s.sent := rfl
@[simp] theorem enqueue_txbuf (c : Chunk) : (enqueue c s).txbuf = s.txbuf := rfl
@[simp] theorem enqueue_txlen (c : Chunk) : (enqueue c s).txlen = s.txlen := rfl
@[simp] theorem enqueue_rxq (c : Chunk) : (enqueue c s).rxq = s.rxq ++ [c] := rfl
@[simp] theorem enqueue_timer (c : Chunk) : (enqueue c s).timer = s.timer := rfl
@[simp] theorem enqueue_tlimit (c : Chunk) : (enqueue c s).tlimit = s.tlimit := rfl
@[simp] theorem enqueue_result (c : Chunk) : (enqueue c s).result = s.result := rfl
@[simp] theorem enqueue_faultCode (c : Chunk) : (enqueue c s).faultCode = s.faultCode := rfl
@[simp] theorem enqueue_pending (c : Chunk) : (enqueue c s).pending = s.pending := rfl
@[simp] theorem enqueue_line (c : Chunk) : (enqueue c s).line = s.line := rfl
@[simp] theorem enqueue_bus (c : Chunk) : (enqueue c s).bus = s.bus := rfl
@[simp] theorem enqueue_freeCount (c : Chunk) : (enqueue c s).freeCount = s.freeCount := rfl
@[simp] theorem enqueue_halted (c : Chunk) : (enqueue c s).halted = s.halted := rfl
@[simp] theorem enqueue_busy (c : Chunk) : (enqueue c s).busy = s.busy := rfl
@[simp] theorem enqueue_frame (c : Chunk) : (enqueue c s).frame = s.frame := rfl

/-! `finish` -/

@[simp] theorem finish_state : (finish s).state = .idle := rfl
@[simp] theorem finish_sent : (finish s).sent = false := rfl
@[simp] theorem finish_txbuf : (finish s).txbuf = s.txbuf := rfl
@[simp] theorem finish_txlen : (finish s).txlen = s.txlen := rfl
@[simp] theorem finish_rxq : (finish s).rxq = [] := rfl
@[simp] theorem finish_timer : (finish s).timer = s.timer := rfl
@[simp] theorem finish_tlimit : (finish s).tlimit = s.tlimit := rfl
@[simp] theorem finish_result : (finish s).result = s.result := rfl
@[simp] theorem finish_faultCode : (finish s).faultCode = s.faultCode := rfl
@[simp] theorem finish_pending : (finish s).pending = s.pending := rfl
@[simp] theorem finish_line : (finish s).line = s.line := rfl
@[simp] theorem finish_bus : (finish s).bus = s.bus := rfl
@[simp] theorem finish_freeCount : (finish s).freeCount = s.freeCount := rfl
@[simp] theorem finish_halted : (finish s).halted = s.halted := rfl
@[simp] theorem finish_frame : (finish s).frame = s.frame := rfl

/-! `startWait` -/

@[simp] theorem startWait_state (t : Ticks) : (startWait t s).state = s.state := rfl
@[simp] theorem startWait_sent (t : Ticks) : (startWait t s).sent = s.sent := rfl
@[simp] theorem startWait_txbuf (t : Ticks) : (startWait t s).txbuf = s.txbuf := rfl
@[simp] theorem startWait_txlen (t : Ticks) : (startWait t s).txlen = s.txlen := rfl
@[simp] theorem startWait_rxq (t : Ticks) : (startWait t s).rxq = s.rxq := rfl
@[simp] theorem startWait_timer (t : Ticks) : (startWait t s).timer = 0#32 := rfl
@[simp] theorem startWait_tlimit (t : Ticks) : (startWait t s).tlimit = t := rfl
@[simp] theorem startWait_result (t : Ticks) : (startWait t s).result = s.result := rfl
@[simp] theorem startWait_faultCode (t : Ticks) : (startWait t s).faultCode = s.faultCode := rfl
@[simp] theorem startWait_pending (t : Ticks) : (startWait t s).pending = s.pending := rfl
@[simp] theorem startWait_line (t : Ticks) : (startWait t s).line = s.line := rfl
@[simp] theorem startWait_bus (t : Ticks) : (startWait t s).bus = s.bus := rfl
@[simp] theorem startWait_freeCount (t : Ticks) : (startWait t s).freeCount = s.freeCount := rfl
@[simp] theorem startWait_halted (t : Ticks) : (startWait t s).halted = s.halted := rfl
@[simp] theorem startWait_busy (t : Ticks) : (startWait t s).busy = s.busy := rfl
@[simp] theorem startWait_frame (t : Ticks) : (startWait t s).frame = s.frame := rfl

/-! `enterState` -/

@[simp] theorem enterState_state (st : OpState) : (enterState st s).state = st := rfl
@[simp] theorem enterState_sent (st : OpState) : (enterState st s).sent = s.sent := rfl
@[simp] theorem enterState_txbuf (st : OpState) : (enterState st s).txbuf = s.txbuf := rfl
@[simp] theorem enterState_txlen (st : OpState) : (enterState st s).txlen = s.txlen := rfl
@[simp] theorem enterState_rxq (st : OpState) : (enterState st s).rxq = s.rxq := rfl
@[simp] theorem enterState_timer (st : OpState) : (enterState st s).timer = s.timer := rfl
@[simp] theorem enterState_tlimit (st : OpState) : (enterState st s).tlimit = s.tlimit := rfl
@[simp] theorem enterState_result (st : OpState) : (enterState st s).result = s.result := rfl
@[simp] theorem enterState_faultCode (st : OpState) : (enterState st s).faultCode = s.faultCode := rfl
@[simp] theorem enterState_pending (st : OpState) : (enterState st s).pending = s.pending := rfl
@[simp] theorem enterState_line (st : OpState) : (enterState st s).line = s.line := rfl
@[simp] theorem enterState_bus (st : OpState) : (enterState st s).bus = s.bus := rfl
@[simp] theorem enterState_freeCount (st : OpState) : (enterState st s).freeCount = s.freeCount := rfl
@[simp] theorem enterState_halted (st : OpState) : (enterState st s).halted = s.halted := rfl
@[simp] theorem enterState_frame (st : OpState) : (enterState st s).frame = s.frame := rfl

/-! `countTick` -/

@[simp] theorem countTick_state : (countTick s).state = s.state := rfl
@[simp] theorem countTick_sent : (countTick s).sent = s.sent := rfl
@[simp] theorem countTick_txbuf : (countTick s).txbuf = s.txbuf := rfl
@[simp] theorem countTick_txlen : (countTick s).txlen = s.txlen := rfl
@[simp] theorem countTick_rxq : (countTick s).rxq = s.rxq := rfl
@[simp] theorem countTick_timer : (countTick s).timer = s.timer + 1#32 := rfl
@[simp] theorem countTick_tlimit : (countTick s).tlimit = s.tlimit := rfl
@[simp] theorem countTick_result : (countTick s).result = s.result := rfl
@[simp] theorem countTick_faultCode : (countTick s).faultCode = s.faultCode := rfl
@[simp] theorem countTick_pending : (countTick s).pending = s.pending := rfl
@[simp] theorem countTick_line : (countTick s).line = s.line := rfl
@[simp] theorem countTick_bus : (countTick s).bus = s.bus := rfl
@[simp] theorem countTick_freeCount : (countTick s).freeCount = s.freeCount := rfl
@[simp] theorem countTick_halted : (countTick s).halted = s.halted := rfl
@[simp] theorem countTick_busy : (countTick s).busy = s.busy := rfl
@[simp] theorem countTick_frame : (countTick s).frame = s.frame := rfl

/-! `lineSend` -/

@[simp] theorem lineSend_state (bs : List Byte) : (lineSend bs s).state = s.state := rfl
@[simp] theorem lineSend_sent (bs : List Byte) : (lineSend bs s).sent = s.sent := rfl
@[simp] theorem lineSend_txbuf (bs : List Byte) : (lineSend bs s).txbuf = s.txbuf := rfl
@[simp] theorem lineSend_txlen (bs : List Byte) : (lineSend bs s).txlen = s.txlen := rfl
@[simp] theorem lineSend_rxq (bs : List Byte) : (lineSend bs s).rxq = s.rxq := rfl
@[simp] theorem lineSend_timer (bs : List Byte) : (lineSend bs s).timer = s.timer := rfl
@[simp] theorem lineSend_tlimit (bs : List Byte) : (lineSend bs s).tlimit = s.tlimit := rfl
@[simp] theorem lineSend_result (bs : List Byte) : (lineSend bs s).result = s.result := rfl
@[simp] theorem lineSend_faultCode (bs : List Byte) : (lineSend bs s).faultCode = s.faultCode := rfl
@[simp] theorem lineSend_pending (bs : List Byte) : (lineSend bs s).pending = s.pending := rfl
@[simp] theorem lineSend_line (bs : List Byte) : (lineSend bs s).line = bs := rfl
@[simp] theorem lineSend_bus (bs : List Byte) : (lineSend bs s).bus = s.bus := rfl
@[simp] theorem lineSend_freeCount (bs : List Byte) : (lineSend bs s).freeCount = s.freeCount := rfl
@[simp] theorem lineSend_halted (bs : List Byte) : (lineSend bs s).halted = s.halted := rfl
@[simp] theorem lineSend_busy (bs : List Byte) : (lineSend bs s).busy = s.busy := rfl
@[simp] theorem lineSend_frame (bs : List Byte) : (lineSend bs s).frame = s.frame := rfl

/-! `lineEnd` -/

@[simp] theorem lineEnd_state (n : Nat) : (lineEnd n s).state = s.state := rfl
@[simp] theorem lineEnd_sent (n : Nat) : (lineEnd n s).sent = s.sent := rfl
@[simp] theorem lineEnd_txbuf (n : Nat) : (lineEnd n s).txbuf = s.txbuf := rfl
@[simp] theorem lineEnd_txlen (n : Nat) : (lineEnd n s).txlen = s.txlen := rfl
@[simp] theorem lineEnd_rxq (n : Nat) : (lineEnd n s).rxq = s.rxq := rfl
@[simp] theorem lineEnd_timer (n : Nat) : (lineEnd n s).timer = s.timer := rfl
@[simp] theorem lineEnd_tlimit (n : Nat) : (lineEnd n s).tlimit = s.tlimit := rfl
@[simp] theorem lineEnd_result (n : Nat) : (lineEnd n s).result = s.result := rfl
@[simp] theorem lineEnd_faultCode (n : Nat) : (lineEnd n s).faultCode = s.faultCode := rfl
@[simp] theorem lineEnd_pending (n : Nat) : (lineEnd n s).pending = s.pending := rfl
@[simp] theorem lineEnd_line (n : Nat) : (lineEnd n s).line = [] := rfl
@[simp] theorem lineEnd_bus (n : Nat) : (lineEnd n s).bus = s.bus ++ [s.line.take n] := rfl
@[simp] theorem lineEnd_freeCount (n : Nat) : (lineEnd n s).freeCount = s.freeCount := rfl
@[simp] theorem lineEnd_halted (n : Nat) : (lineEnd n s).halted = s.halted := rfl
@[simp] theorem lineEnd_busy (n : Nat) : (lineEnd n s).busy = s.busy := rfl
@[simp] theorem lineEnd_frame (n : Nat) : (lineEnd n s).frame = s.frame := rfl

/-! `lineDone` changes the line and the bus only -/

@[simp] theorem lineDone_state : (lineDone s).state = s.state := by
  unfold lineDone; split <;> rfl
@[simp] theorem lineDone_sent : (lineDone s).sent = s.sent := by
  unfold lineDone; split <;> rfl
@[simp] theorem lineDone_txbuf : (lineDone s).txbuf = s.txbuf := by
  unfold lineDone; split <;> rfl
@[simp] theorem lineDone_txlen : (lineDone s).txlen = s.txlen := by
  unfold lineDone; split <;> rfl
@[simp] theorem lineDone_rxq : (lineDone s).rxq = s.rxq := by
  unfold lineDone; split <;> rfl
@[simp] theorem lineDone_timer : (lineDone s).timer = s.timer := by
  unfold lineDone; split <;> rfl
@[simp] theorem lineDone_tlimit : (lineDone s).tlimit = s.tlimit := by
  unfold lineDone; split <;> rfl
@[simp] theorem lineDone_result : (lineDone s).result = s.result := by
  unfold lineDone; split <;> rfl
@[simp] theorem lineDone_faultCode : (lineDone s).faultCode = s.faultCode := by
  unfold lineDone; split <;> rfl
@[simp] theorem lineDone_pending : (lineDone s).pending = s.pending := by
  unfold lineDone; split <;> rfl
@[simp] theorem lineDone_line : (lineDone s).line = [] := by
  unfold lineDone; split <;> simp_all
@[simp] theorem lineDone_frame : (lineDone s).frame = s.frame := by
  unfold lineDone; split <;> rfl

/-! `lineCut` changes the line and the bus only -/

@[simp] theorem lineCut_state : (lineCut s).state = s.state := by
  unfold lineCut; split <;> rfl
@[simp] theorem lineCut_sent : (lineCut s).sent = s.sent := by
  unfold lineCut; split <;> rfl
@[simp] theorem lineCut_txbuf : (lineCut s).txbuf = s.txbuf := by
  unfold lineCut; split <;> rfl
@[simp] theorem lineCut_txlen : (lineCut s).txlen = s.txlen := by
  unfold lineCut; split <;> rfl
@[simp] theorem lineCut_rxq : (lineCut s).rxq = s.rxq := by
  unfold lineCut; split <;> rfl
@[simp] theorem lineCut_timer : (lineCut s).timer = s.timer := by
  unfold lineCut; split <;> rfl
@[simp] theorem lineCut_tlimit : (lineCut s).tlimit = s.tlimit := by
  unfold lineCut; split <;> rfl
@[simp] theorem lineCut_result : (lineCut s).result = s.result := by
  unfold lineCut; split <;> rfl
@[simp] theorem lineCut_faultCode : (lineCut s).faultCode = s.faultCode := by
  unfold lineCut; split <;> rfl
@[simp] theorem lineCut_pending : (lineCut s).pending = s.pending := by
  unfold lineCut; split <;> rfl
@[simp] theorem lineCut_line : (lineCut s).line = [] := by
  unfold lineCut; split <;> simp_all
@[simp] theorem lineCut_frame : (lineCut s).frame = s.frame := by
  unfold lineCut; split <;> rfl

/-! `raiseFault` writes `FAULT_CODE` and ends a transmission, nothing else (R209) -/

@[simp] theorem raiseFault_state (k : FaultCode) : (raiseFault k s).state = s.state := by
  unfold raiseFault; split <;> simp
@[simp] theorem raiseFault_sent (k : FaultCode) : (raiseFault k s).sent = s.sent := by
  unfold raiseFault; split <;> simp
@[simp] theorem raiseFault_txbuf (k : FaultCode) : (raiseFault k s).txbuf = s.txbuf := by
  unfold raiseFault; split <;> simp
@[simp] theorem raiseFault_txlen (k : FaultCode) : (raiseFault k s).txlen = s.txlen := by
  unfold raiseFault; split <;> simp
@[simp] theorem raiseFault_rxq (k : FaultCode) : (raiseFault k s).rxq = s.rxq := by
  unfold raiseFault; split <;> simp
@[simp] theorem raiseFault_timer (k : FaultCode) : (raiseFault k s).timer = s.timer := by
  unfold raiseFault; split <;> simp
@[simp] theorem raiseFault_tlimit (k : FaultCode) : (raiseFault k s).tlimit = s.tlimit := by
  unfold raiseFault; split <;> simp
@[simp] theorem raiseFault_result (k : FaultCode) : (raiseFault k s).result = s.result := by
  unfold raiseFault; split <;> simp
@[simp] theorem raiseFault_pending (k : FaultCode) : (raiseFault k s).pending = s.pending := by
  unfold raiseFault; split <;> simp

/-! `resetBlock`: the reset values of R33, with the inputs still to come kept -/

@[simp] theorem resetBlock_state : (resetBlock s).state = State.reset.state := rfl
@[simp] theorem resetBlock_sent : (resetBlock s).sent = State.reset.sent := rfl
@[simp] theorem resetBlock_txbuf : (resetBlock s).txbuf = State.reset.txbuf := rfl
@[simp] theorem resetBlock_txlen : (resetBlock s).txlen = State.reset.txlen := rfl
@[simp] theorem resetBlock_rxq : (resetBlock s).rxq = State.reset.rxq := rfl
@[simp] theorem resetBlock_timer : (resetBlock s).timer = State.reset.timer := rfl
@[simp] theorem resetBlock_tlimit : (resetBlock s).tlimit = State.reset.tlimit := rfl
@[simp] theorem resetBlock_result : (resetBlock s).result = State.reset.result := rfl
@[simp] theorem resetBlock_faultCode : (resetBlock s).faultCode = State.reset.faultCode := rfl
@[simp] theorem resetBlock_pending : (resetBlock s).pending = s.pending := rfl
@[simp] theorem resetBlock_line : (resetBlock s).line = [] := rfl

end Sys2Proof.Machine
end

