-- ==== Sys2Proof/Laws/Ops.lean ====
section
/-!
SUPPORT. For each shared operation of Machine/Ops.lean, what it can do, said once: the end of a transmission, fault entry
(60_exceptions.md R209), a request (R206, R210), the waits, a received chunk (41_transport.md R134) and a tick (R137). Proofs
cite these and need not unfold the operations.
-/

namespace Sys2Proof.Machine

variable (s : State)

theorem State.halted_eq_false : s.halted = false ↔ s.faultCode = .noFault := by
  simp [State.halted]

theorem State.halted_eq_true : s.halted = true ↔ s.faultCode ≠ .noFault := by
  simp [State.halted]

theorem State.busy_eq_false : s.busy = false ↔ s.state = .idle := by
  simp [State.busy]

theorem State.busy_eq_true : s.busy = true ↔ s.state ≠ .idle := by
  simp [State.busy]

/-! ### The line -/

theorem lineCut_idle (h : s.line = []) : lineCut s = s := by simp [lineCut, h]

theorem lineDone_idle (h : s.line = []) : lineDone s = s := by simp [lineDone, h]

theorem lineDone_bus (h : s.line ≠ []) : (lineDone s).bus = s.bus ++ [s.line] := by
  simp [lineDone, h]

/-- Of a transmission cut short, some first bytes have left (R133, R209, R230). -/
theorem lineCut_busy (h : s.line ≠ []) :
    ∃ n, n ≤ s.line.length ∧ lineCut s =
      { s with line := [], bus := s.bus ++ [s.line.take n], freeCount := s.freeCount + 1 } := by
  refine ⟨min (Config.freePrefix s.freeCount) s.line.length, by omega, ?_⟩
  simp [lineCut, h, lineEnd, ← List.take_eq_take_min]

/-! ### Faults -/

/-- Fault entry writes the code of the first fault. -/
theorem raiseFault_code (k : FaultCode) (h : s.faultCode = .noFault) :
    (raiseFault k s).faultCode = k := by simp [raiseFault, h]

/-- A later fault changes nothing. -/
theorem raiseFault_halted (k : FaultCode) (h : s.faultCode ≠ .noFault) : raiseFault k s = s := by
  simp [raiseFault, h]

/-- Fault entry keeps the rest of `S` (R209). -/
theorem raiseFault_same (k : FaultCode) : SameButFault s (raiseFault k s) := by
  constructor <;> simp

/-- Fault entry treats the line as a cut does. -/
theorem raiseFault_eq (k : FaultCode) (h : s.faultCode = .noFault) :
    raiseFault k s = { lineCut s with faultCode := k } := by simp [raiseFault, h]

/-! ### Requests -/

theorem takeRequest_halted (op : State → State) (h : s.faultCode ≠ .noFault) : takeRequest op s = s := by
  simp [takeRequest, (State.halted_eq_true s).2 h]

theorem takeRequest_busy (op : State → State) (h : s.faultCode = .noFault) (hb : s.state ≠ .idle) :
    takeRequest op s = raiseFault .overlap s := by
  simp [takeRequest, (State.halted_eq_false s).2 h, (State.busy_eq_true s).2 hb]

theorem takeRequest_idle (op : State → State) (h : s.faultCode = .noFault) (hi : s.state = .idle) :
    takeRequest op s = op s := by
  simp [takeRequest, (State.halted_eq_false s).2 h, (State.busy_eq_false s).2 hi]

theorem illegalRequest_halted (h : s.faultCode ≠ .noFault) : illegalRequest s = s := by
  simp [illegalRequest, (State.halted_eq_true s).2 h]

theorem illegalRequest_running (h : s.faultCode = .noFault) :
    illegalRequest s = raiseFault .illegalOp s := by
  simp [illegalRequest, (State.halted_eq_false s).2 h]

/-! ### Completions -/

/-- How a wait ends (R140). -/
theorem endWait_eq (r : Result) :
    endWait r s = { s with result := r, state := .idle, sent := false, rxq := [] } := rfl

theorem endGather_eq :
    endGather s = { s with result := gatherResult s.rxq, state := .idle, sent := false, rxq := [] } := rfl

/-- SEND with a frame (R131). -/
theorem startSend_frame (h : s.txlen ≠ 0#4) :
    startSend s = { s with rxq := [], sent := false, state := .tx, line := s.frame } := by
  simp [startSend, h, lineSend, State.frame]

theorem startSend_empty (h : s.txlen = 0#4) : startSend s = raiseFault .txEmpty s := by
  simp [startSend, h]

/-- AWAIT_SINGLE with a chunk queued ends on the first (R135). -/
theorem startAwaitSingle_queued (t : Ticks) (c : Chunk) (cs : List Chunk) (h : s.sent = true)
    (hq : s.rxq = c :: cs) :
    startAwaitSingle t s = endWait (.response (reply c)) (startWait t s) := by
  simp [startAwaitSingle, h, hq]

/-- AWAIT_SINGLE with nothing queued (R135). -/
theorem startAwaitSingle_empty (t : Ticks) (h : s.sent = true) (hq : s.rxq = []) :
    startAwaitSingle t s =
      if t = 0#32 then endWait .noResponse (startWait t s)
      else enterState .awaitSingle (startWait t s) := by
  simp [startAwaitSingle, h, hq]

theorem startAwaitSingle_unsent (t : Ticks) (h : s.sent = false) :
    startAwaitSingle t s = raiseFault .awaitNoSend s := by simp [startAwaitSingle, h]

theorem startAwaitAll_sent (t : Ticks) (h : s.sent = true) :
    startAwaitAll t s =
      if t = 0#32 then endGather (startWait t s) else enterState .awaitAll (startWait t s) := by
  simp [startAwaitAll, h]

theorem startAwaitAll_unsent (t : Ticks) (h : s.sent = false) :
    startAwaitAll t s = raiseFault .awaitNoSend s := by simp [startAwaitAll, h]

/-! ### Chunks and ticks -/

theorem rxChunk_halted (c : Chunk) (h : s.faultCode ≠ .noFault) : rxChunk c s = s := by
  simp [rxChunk, (State.halted_eq_true s).2 h]

theorem rxChunk_tx (c : Chunk) (h : s.state = .tx) : rxChunk c s = s := by
  simp [rxChunk, h]

theorem rxChunk_idle (c : Chunk) (h : s.faultCode = .noFault) (hs : s.state = .idle) :
    rxChunk c s = if s.sent then enqueue c s else s := by
  simp [rxChunk, (State.halted_eq_false s).2 h, hs]

theorem rxChunk_awaitAll (c : Chunk) (h : s.faultCode = .noFault) (hs : s.state = .awaitAll) :
    rxChunk c s = enqueue c s := by
  simp [rxChunk, (State.halted_eq_false s).2 h, hs]

theorem rxChunk_awaitSingle (c : Chunk) (h : s.faultCode = .noFault) (hs : s.state = .awaitSingle) :
    rxChunk c s = endWait (.response (reply c)) (enqueue c s) := by
  simp [rxChunk, (State.halted_eq_false s).2 h, hs]

/-- A tick outside a wait, or halted, does nothing (R137). -/
theorem tick_idle (h : s.faultCode ≠ .noFault ∨ s.state = .idle ∨ s.state = .tx) : tick s = s := by
  unfold tick
  rcases h with h | h | h
  · simp [(State.halted_eq_true s).2 h]
  · simp [h]
  · simp [h]

theorem tick_awaitSingle (h : s.faultCode = .noFault) (hs : s.state = .awaitSingle) :
    tick s = if s.timer + 1#32 = s.tlimit then endWait .noResponse (countTick s) else countTick s := by
  simp [tick, (State.halted_eq_false s).2 h, hs]

theorem tick_awaitAll (h : s.faultCode = .noFault) (hs : s.state = .awaitAll) :
    tick s = if s.timer + 1#32 = s.tlimit then endGather (countTick s) else countTick s := by
  simp [tick, (State.halted_eq_false s).2 h, hs]

end Sys2Proof.Machine
end

