-- ==== Sys2Proof/Laws/PerInstr.lean ====
section
/-!
SUPPORT. A law per instruction: its encoding matches its row of spec/opcode_table.json, width, mask and match as the table
gives them (30_encoding.md R87). One lemma per constructor of `Instr`.
-/

namespace Sys2Proof.Laws.TableRow

open Sys2Proof Sys2Proof.Machine

/-- Width in bits, match and mask of an instruction's row, copied from the opcode table. -/
def row : Instr → Nat × Nat × Nat
  | .encode _ _ => (64, 0x1, 0xF)
  | .encodeExt _ _ _ => (64, 0x2, 0xF)
  | .decode _ => (64, 0x3, 0xF)
  | .send => (64, 0x4, 0xF)
  | .awaitSingle _ => (64, 0x5, 0xF)
  | .awaitAll _ => (64, 0x6, 0xF)
  | .getDoorStatus _ _ => (40, 0x0200300300, 0xFF00FFFF00)
  | .unlock _ _ => (40, 0x0200310300, 0xFF00FFFF00)
  | .getBusStatus _ _ => (40, 0x0200320300, 0xFF00FFFF00)
  | .broadcastRecruit _ _ _ => (72, 0x020080000000000300, 0xFF00FF00FFFFFFFF00)
  | .assignNewAddress _ _ _ => (72, 0x020081000000000300, 0xFF00FF00FFFFFFFF00)

/-- A code lies in a row: a request word under the mask is the match, a frame has the row's length and under the mask's
bytes it is the match's bytes. -/
def Lies : Code → Nat × Nat × Nat → Prop
  | .request w _, (width, mat, mask) => width = 64 ∧ w &&& BitVec.ofNat 64 mask = BitVec.ofNat 64 mat
  | .frame bs, (width, mat, mask) =>
    8 * bs.length = width ∧
      List.zipWith (· &&& ·) bs (tableBytes bs.length mask) = tableBytes bs.length mat

/-- The instruction's encoding lies in its row. -/
def Statement (i : Instr) : Prop := Lies (encodeInstr i) (row i)

/-- A built request word under the mask 0xF is its operation code. -/
theorem reqWord_mask (t : Ticks) (n c a : Byte) (op : BitVec 4) :
    reqWord t n c a op &&& BitVec.ofNat 64 0xF = op.setWidth 64 := by
  apply BitVec.eq_of_getLsbD_eq
  intro i hi
  have hm : (BitVec.ofNat 64 0xF).getLsbD i = decide (i < 4) := by
    revert i; decide
  rw [BitVec.getLsbD_and, hm, BitVec.getLsbD_setWidth]
  by_cases h : i < 4
  · simp only [reqWord, BitVec.getLsbD_append]
    simp [h, hi]
  · have hz : op.getLsbD i = false := BitVec.getLsbD_of_ge _ _ (by omega)
    simp [h, hz]

theorem encode (a c : Byte) : Statement (.encode a c) :=
  ⟨rfl, by rw [reqWord_mask]; rfl⟩

theorem encodeExt (a c n : Byte) : Statement (.encodeExt a c n) :=
  ⟨rfl, by rw [reqWord_mask]; rfl⟩

theorem decode (bs : List Byte) : Statement (.decode bs) :=
  ⟨rfl, by rw [reqWord_mask]; rfl⟩

theorem send : Statement .send :=
  ⟨rfl, by rw [reqWord_mask]; rfl⟩

theorem awaitSingle (t : Ticks) : Statement (.awaitSingle t) :=
  ⟨rfl, by rw [reqWord_mask]; rfl⟩

theorem awaitAll (t : Ticks) : Statement (.awaitAll t) :=
  ⟨rfl, by rw [reqWord_mask]; rfl⟩

/-- The three basic rows, by their command byte. -/
theorem basic_lies (a c k : Byte) (mat : Nat)
    (h : tableBytes 5 mat = [0x02#8, 0#8, c, 0x03#8, 0#8]) :
    Lies (.frame (basicChunk a c k).bytes) (40, mat, 0xFF00FFFF00) := by
  refine ⟨rfl, ?_⟩
  show List.zipWith (· &&& ·) [0x02#8, a, c, 0x03#8, k] (tableBytes 5 0xFF00FFFF00) = tableBytes 5 mat
  have hm : tableBytes 5 0xFF00FFFF00 = [0xFF#8, 0#8, 0xFF#8, 0xFF#8, 0#8] := by decide
  have hc : c &&& 0xFF#8 = c := BitVec.and_allOnes
  rw [h, hm]
  simp [hc]

/-- The two extended rows, by their command byte. -/
theorem extended_lies (a c n k : Byte) (mat : Nat)
    (h : tableBytes 9 mat = [0x02#8, 0#8, c, 0#8, 0#8, 0#8, 0#8, 0x03#8, 0#8]) :
    Lies (.frame (extChunk a c n k).bytes) (72, mat, 0xFF00FF00FFFFFFFF00) := by
  refine ⟨rfl, ?_⟩
  show List.zipWith (· &&& ·) [0x02#8, a, c, n, 0#8, 0#8, 0#8, 0x03#8, k]
    (tableBytes 9 0xFF00FF00FFFFFFFF00) = tableBytes 9 mat
  have hm : tableBytes 9 0xFF00FF00FFFFFFFF00 =
      [0xFF#8, 0#8, 0xFF#8, 0#8, 0xFF#8, 0xFF#8, 0xFF#8, 0xFF#8, 0#8] := by decide
  have hc : c &&& 0xFF#8 = c := BitVec.and_allOnes
  rw [h, hm]
  simp [hc]

theorem getDoorStatus (a k : Byte) : Statement (.getDoorStatus a k) :=
  basic_lies a _ k _ (by decide)

theorem unlock (a k : Byte) : Statement (.unlock a k) :=
  basic_lies a _ k _ (by decide)

theorem getBusStatus (a k : Byte) : Statement (.getBusStatus a k) :=
  basic_lies a _ k _ (by decide)

theorem broadcastRecruit (a n k : Byte) : Statement (.broadcastRecruit a n k) :=
  extended_lies a _ n k _ (by decide)

theorem assignNewAddress (a n k : Byte) : Statement (.assignNewAddress a n k) :=
  extended_lies a _ n k _ (by decide)

end Sys2Proof.Laws.TableRow
end

