-- ==== Sys2Proof/Laws/Step.lean ====
section
/-!
SUPPORT. What a step can do, said once (41_transport.md R130, R144): the operation each instruction applies, a chunk whatever
its bytes, a request by its operation code, and the inversion of `step`.
-/

namespace Sys2Proof.Machine

/-- What the operation of a legal request is, by its instruction (R84); the wire commands are no requests. -/
def requestOp : Instr → State → State
  | .encode a c => buildFrame (basicFrame a c)
  | .encodeExt a c n => buildFrame (extFrame a c n)
  | .decode bs => decodeBytes bs
  | .send => startSend
  | .awaitSingle t => startAwaitSingle t
  | .awaitAll t => startAwaitAll t
  | .getDoorStatus _ _ => id
  | .unlock _ _ => id
  | .getBusStatus _ _ => id
  | .broadcastRecruit _ _ _ => id
  | .assignNewAddress _ _ _ => id

/-- A request's word decodes to a request instruction or to none, and `exec` of it is its operation as a request. -/
theorem takeRequestWord_cases (w : ReqWord) (bs : List Byte) (s : State) :
    (∃ i, decodeInstr (.request w bs) = .ok i ∧
      takeRequestWord w bs s = .next (takeRequest (requestOp i) s)) ∨
    (∃ r, decodeInstr (.request w bs) = .error r ∧
      takeRequestWord w bs s = .next (illegalRequest s)) := by
  simp only [takeRequestWord, decodeInstr]
  unfold decodeRequest
  split <;> simp [requestOp, exec, execEncode, execEncodeExt, execDecode, execSend, execAwaitSingle,
    execAwaitAll]

/-- A wire command's meaning is that of its bytes as a chunk (R134). -/
theorem exec_of_decodeFrame (c : Chunk) (i : Instr) (h : decodeFrame c.bytes = .ok i) (s : State) :
    exec i s = .next (rxChunk c s) := by
  obtain ⟨b, bs⟩ := c
  simp only [Chunk.bytes] at h
  unfold decodeFrame at h
  split at h
  · next st a c e k heq =>
    obtain ⟨rfl, rfl⟩ : b = st ∧ bs = [a, c, e, k] := by simpa using heq
    split at h
    · simp at h
    split at h
    · simp at h
    next h1 h2 =>
      simp only [ne_eq, not_not] at h1 h2
      subst h1 h2
      unfold decodeBasic at h
      split at h
      · next hc => cases h; subst hc; rfl
      split at h
      · next hc => cases h; subst hc; rfl
      split at h
      · next hc => cases h; subst hc; rfl
      · simp at h
  · next st a c n r4 r5 r6 e k heq =>
    obtain ⟨rfl, rfl⟩ : b = st ∧ bs = [a, c, n, r4, r5, r6, e, k] := by simpa using heq
    split at h
    · simp at h
    split at h
    · simp at h
    split at h
    · simp at h
    next h1 h2 h3 =>
      simp only [ne_eq, not_not, not_or] at h1 h2 h3
      obtain ⟨h4, h5, h6⟩ := h3
      subst h1 h2 h4 h5 h6
      unfold decodeExtended at h
      split at h
      · next hc => cases h; subst hc; rfl
      split at h
      · next hc => cases h; subst hc; rfl
      · simp at h
  · simp at h

/-- The block stores a chunk alike whatever its bytes decode to (R134, R141). -/
theorem takeChunk_eq (c : Chunk) (s : State) : takeChunk c s = .next (rxChunk c s) := by
  unfold takeChunk
  split
  · next i h => exact exec_of_decodeFrame c i h s
  · rfl

/-- What a step that has a next state did. -/
theorem step_next_cases {s t : State} (h : step s = .next t) :
    (s.pending = [] ∧ t = s) ∨
    ∃ x xs, s.pending = x :: xs ∧
      ((∃ w bs i, x = .request w bs ∧ decodeInstr (.request w bs) = .ok i ∧
          t = takeRequest (requestOp i) (setPending xs s)) ∨
        (∃ w bs r, x = .request w bs ∧ decodeInstr (.request w bs) = .error r ∧
          t = illegalRequest (setPending xs s)) ∨
        ((x = .txDone ∨ x = .txFail) ∧ s.faultCode ≠ .noFault ∧ t = setPending xs s) ∨
        (x = .txDone ∧ s.faultCode = .noFault ∧ s.state = .tx ∧ t = txDone (setPending xs s)) ∨
        (x = .txFail ∧ s.faultCode = .noFault ∧ s.state = .tx ∧ t = txFail (setPending xs s)) ∨
        (∃ c, x = .rxChunk c ∧ t = rxChunk c (setPending xs s)) ∨
        (x = .tick ∧ t = tick (setPending xs s)) ∨
        (x = .reset ∧ t = resetBlock (setPending xs s))) := by
  unfold step at h
  split at h
  · next hp => exact .inl ⟨hp, by simpa [waitForInput] using h.symm⟩
  · next x xs hp =>
    refine .inr ⟨x, xs, hp, ?_⟩
    cases x with
    | request w bs =>
      rcases takeRequestWord_cases w bs (setPending xs s) with ⟨i, hd, he⟩ | ⟨r, hd, he⟩
      · exact .inl ⟨w, bs, i, rfl, hd, by simpa [takeInput, he] using h.symm⟩
      · exact .inr (.inl ⟨w, bs, r, rfl, hd, by simpa [takeInput, he] using h.symm⟩)
    | txDone =>
      simp only [takeInput, lineReport] at h
      split at h
      · next hh =>
        exact .inr (.inr (.inl ⟨.inl rfl, by simpa [State.halted] using hh, by simpa using h.symm⟩))
      split at h
      · next hh hs =>
        exact .inr (.inr (.inr (.inl ⟨rfl, by simpa [State.halted] using hh, hs, by simpa using h.symm⟩)))
      · simp at h
    | txFail =>
      simp only [takeInput, lineReport] at h
      split at h
      · next hh =>
        exact .inr (.inr (.inl ⟨.inr rfl, by simpa [State.halted] using hh, by simpa using h.symm⟩))
      split at h
      · next hh hs =>
        exact .inr (.inr (.inr (.inr (.inl
          ⟨rfl, by simpa [State.halted] using hh, hs, by simpa using h.symm⟩))))
      · simp at h
    | rxChunk c =>
      simp only [takeInput, takeChunk_eq] at h
      exact .inr (.inr (.inr (.inr (.inr (.inl ⟨c, rfl, by simpa using h.symm⟩)))))
    | tick =>
      simp only [takeInput] at h
      exact .inr (.inr (.inr (.inr (.inr (.inr (.inl ⟨rfl, by simpa using h.symm⟩))))))
    | reset =>
      simp only [takeInput] at h
      exact .inr (.inr (.inr (.inr (.inr (.inr (.inr ⟨rfl, by simpa using h.symm⟩))))))

end Sys2Proof.Machine
end

