-- ==== Sys2Proof/Laws/Run.lean ====
section
/-!
SUPPORT. The machine's runs in terms of its steps: one step peeled off a run of the host's interface.
-/

namespace Sys2Proof.Machine

/-- A run of no steps. -/
theorem run_zero (s : State) : Sys2Proof.core.run 0 s = .next s := rfl

/-- A run whose first step has a next state goes on from it. -/
theorem run_succ (k : Nat) (s t : State) (h : step s = .next t) :
    Sys2Proof.core.run (k + 1) s = Sys2Proof.core.run k t := by
  have h' : Sys2Proof.core.step s = .next t := h
  simp only [Host.Core.run, h']

/-- The step on a pending chunk. -/
theorem step_rxChunk (s : State) (c : Chunk) (xs : List Input) (h : s.pending = .rxChunk c :: xs) :
    step s = .next (rxChunk c (setPending xs s)) := by
  unfold step
  rw [h]
  simp [takeInput, takeChunk_eq]

/-- The step on a pending tick. -/
theorem step_tick (s : State) (xs : List Input) (h : s.pending = .tick :: xs) :
    step s = .next (tick (setPending xs s)) := by
  unfold step
  rw [h]
  rfl

/-- The step on a pending request that decodes. -/
theorem step_request (s : State) (w : ReqWord) (bs : List Byte) (xs : List Input) (i : Instr)
    (h : s.pending = .request w bs :: xs) (hd : decodeInstr (.request w bs) = .ok i) :
    step s = .next (takeRequest (requestOp i) (setPending xs s)) := by
  rcases takeRequestWord_cases w bs (setPending xs s) with ⟨i', hd', he⟩ | ⟨r, hd', he⟩
  · rw [hd] at hd'
    cases hd'
    unfold step
    rw [h]
    exact he
  · rw [hd] at hd'
    cases hd'

/-- The step on a pending request that decodes to no instruction. -/
theorem step_illegal (s : State) (w : ReqWord) (bs : List Byte) (xs : List Input) (r : Reject)
    (h : s.pending = .request w bs :: xs) (hd : decodeInstr (.request w bs) = .error r) :
    step s = .next (illegalRequest (setPending xs s)) := by
  rcases takeRequestWord_cases w bs (setPending xs s) with ⟨i', hd', he⟩ | ⟨r', hd', he⟩
  · rw [hd] at hd'
    cases hd'
  · unfold step
    rw [h]
    exact he

end Sys2Proof.Machine
end

