-- ==== Sys2Proof/Tests/Slice0.lean ====
section
/-!
SUPPORT. Tests against the spec's own vectors (95_test_vectors.md, the examples of 30_encoding.md and 40_codec.md), an
ill-formed term for each check of `wellFormed`, and for every statement with hypotheses a state and operands that meet them.
-/

namespace Sys2Proof.Tests

open Sys2Proof Sys2Proof.Machine

/-! ### States the tests start from -/

/-- After `ENCODE 0x00, 0x30` from reset (95_test_vectors.md P1 line 1). -/
def encoded : State :=
  { State.reset with
    txbuf := #v[0x02#8, 0x00#8, 0x30#8, 0x03#8, 0x35#8, 0#8, 0#8, 0#8, 0#8], txlen := 5#4, result := .frameReady }

/-- V71: then SEND. -/
def sending : State :=
  { encoded with state := .tx, line := [0x02#8, 0x00#8, 0x30#8, 0x03#8, 0x35#8] }

/-- V73: then TX_DONE. -/
def acked : State :=
  { encoded with sent := true, result := .ack, bus := [[0x02#8, 0x00#8, 0x30#8, 0x03#8, 0x35#8]] }

/-- V73, then `AWAIT_SINGLE 3`. -/
def waitingOne : State := { acked with state := .awaitSingle, tlimit := 3#32 }

/-- V73, then `AWAIT_ALL 3`. -/
def waitingAll : State := { acked with state := .awaitAll, tlimit := 3#32 }

/-- V104: SEND from reset. -/
def haltedState : State := { State.reset with faultCode := .txEmpty }

/-- The status reply of V80. -/
def openReply : Chunk := ⟨0x02#8, [0x00#8, 0x30#8, 0x01#8, 0#8, 0#8, 0#8, 0x03#8, 0x36#8]⟩

/-- A one-byte chunk. -/
def noise : Chunk := ⟨0x07#8, []⟩

/-- The state with these inputs pending. -/
def feed (xs : List Input) (s : State) : State := setPending xs s

/-- `STATUS` after one step, where there is a next state. -/
def statusAfterStep (s : State) : Option (BitVec 16) := (afterStep (step s)).map readStatus

/-- `STATUS` after an instruction, where there is a next state. -/
def statusAfter (i : Instr) (s : State) : Option (BitVec 16) := (afterStep (exec i s)).map readStatus

/-- The readable frame after an instruction. -/
def frameAfter (i : Instr) (s : State) : Option (List Byte) := (afterStep (exec i s)).map State.frame

/-- `RESULT` after an instruction. -/
def resultAfter (i : Instr) (s : State) : Option Result := (afterStep (exec i s)).map readResult

/-! ### Encodings: words written out from the spec -/

/-- Request words V10, V30, V80, V90 and one of each other request (R83, R84). -/
theorem test_decode_request_words :
    decodeInstr (.request 0x0000000000310001#64 []) = .ok (.encode 0x00#8 0x31#8) ∧
    decodeInstr (.request 0x000000000032F001#64 []) = .ok (.encode 0xF0#8 0x32#8) ∧
    decodeInstr (.request 0x000000000A81F002#64 []) = .ok (.encodeExt 0xF0#8 0x81#8 0x0A#8) ∧
    decodeInstr (.request 0x0000000000000003#64 [0x12#8]) = .ok (.decode [0x12#8]) ∧
    decodeInstr (.request 0x0000000000000004#64 []) = .ok .send ∧
    decodeInstr (.request 0xFFFFFFFF00000005#64 []) = .ok (.awaitSingle 4294967295#32) ∧
    decodeInstr (.request 0x0000000500000006#64 []) = .ok (.awaitAll 5#32) := by decide

/-- V25: the fields ENCODE does not read, and the reserved bits, are ignored (R83). -/
theorem test_decode_ignores_unread_fields :
    decodeInstr (.request 0x00000007553100A1#64 [0xFF#8]) = .ok (.encode 0x00#8 0x31#8) := by decide

/-- The unused OP values, V100 to V102 (R84, R85). -/
theorem test_decode_illegal_op :
    decodeInstr (.request 0x0#64 []) = .error (.illegalOp 0#4) ∧
    decodeInstr (.request 0x7#64 []) = .error (.illegalOp 7#4) ∧
    decodeInstr (.request 0xF#64 []) = .error (.illegalOp 15#4) := by decide

/-- The frames of R75 to R79 with the addresses given there. -/
theorem test_decode_wire_commands :
    decodeInstr (.frame [0x02#8, 0x00#8, 0x30#8, 0x03#8, 0x35#8]) = .ok (.getDoorStatus 0x00#8 0x35#8) ∧
    decodeInstr (.frame [0x02#8, 0x01#8, 0x31#8, 0x03#8, 0x37#8]) = .ok (.unlock 0x01#8 0x37#8) ∧
    decodeInstr (.frame [0x02#8, 0xF0#8, 0x32#8, 0x03#8, 0x27#8]) = .ok (.getBusStatus 0xF0#8 0x27#8) ∧
    decodeInstr (.frame [0x02#8, 0xFF#8, 0x80#8, 0x00#8, 0#8, 0#8, 0#8, 0x03#8, 0x84#8]) =
      .ok (.broadcastRecruit 0xFF#8 0x00#8 0x84#8) ∧
    decodeInstr (.frame [0x02#8, 0x00#8, 0x81#8, 0x01#8, 0#8, 0#8, 0#8, 0x03#8, 0x87#8]) =
      .ok (.assignNewAddress 0x00#8 0x01#8 0x87#8) := by decide

/-- Frames that are no command are rejected by name: no bytes, wrong START, wrong END, a status reply, another command. -/
theorem test_decode_frame_rejects :
    decodeInstr (.frame []) = .error (.frameLength 0) ∧
    decodeInstr (.frame [0x12#8, 0#8, 0x31#8, 0x03#8, 0x46#8]) = .error (.startMarker 0x12#8) ∧
    decodeInstr (.frame [0x02#8, 0#8, 0x31#8, 0x04#8, 0x37#8]) = .error (.endMarker 0x04#8) ∧
    decodeInstr (.frame [0x02#8, 0#8, 0x81#8, 0#8, 0#8, 1#8, 0#8, 0x03#8, 0x87#8]) =
      .error (.reservedBytes 0#8 1#8 0#8) ∧
    decodeInstr (.frame openReply.bytes) = .error (.notACommand 0x30#8) ∧
    decodeInstr (.frame [0x02#8, 0#8, 0x81#8, 0x03#8, 0x86#8]) = .error (.notACommand 0x81#8) := by decide

/-- The table's numbering (R87): byte 0 of a frame is the most significant; a request is its 64-bit word. -/
theorem test_table_numbers :
    decodeTableWord 40 0x0200310336 = some (.unlock 0x00#8 0x36#8) ∧
    decodeTableWord 72 0x020081010000000387 = some (.assignNewAddress 0x00#8 0x01#8 0x87#8) ∧
    decodeTableWord 64 0x0000000A00000005 = some (.awaitSingle 10#32) ∧
    decodeTableWord 64 0 = none ∧ decodeTableWord 40 0x0200330300 = none := by decide

/-- An instruction placed by its table number is the first one to run after reset. -/
theorem test_fetch_word_runs_first :
    afterStep (step (State.reset.withFetchWord 64 0x0000000000310001)) = afterStep (exec (.encode 0x00#8 0x31#8) State.reset) ∧
    afterStep (step (State.reset.withFetchWord 40 0x0200300335)) = afterStep (exec (.getDoorStatus 0x00#8 0x35#8) State.reset) := by
  decide

/-! ### Well-formedness: W1 and W3 pass, and each check refuses a wrong SUM -/

theorem test_well_formed :
    WellFormed (.encode 0xFF#8 0xFF#8) ∧ WellFormed (.getDoorStatus 0x00#8 0x35#8) ∧ WellFormed (.unlock 0x01#8 0x37#8) ∧
    WellFormed (.getBusStatus 0xF0#8 0x27#8) ∧ WellFormed (.broadcastRecruit 0xFF#8 0x00#8 0x84#8) ∧
    WellFormed (.assignNewAddress 0x00#8 0x01#8 0x87#8) := by decide

theorem test_ill_formed_getDoorStatus : ¬ WellFormed (.getDoorStatus 0x00#8 0x36#8) := by decide
theorem test_ill_formed_unlock : ¬ WellFormed (.unlock 0x00#8 0x35#8) := by decide
theorem test_ill_formed_getBusStatus : ¬ WellFormed (.getBusStatus 0xF0#8 0x28#8) := by decide
theorem test_ill_formed_broadcastRecruit : ¬ WellFormed (.broadcastRecruit 0xFF#8 0x01#8 0x84#8) := by decide
theorem test_ill_formed_assignNewAddress : ¬ WellFormed (.assignNewAddress 0x00#8 0x01#8 0x0E#8) := by decide

/-! ### Operations and views -/

/-- V1 to V6. -/
theorem test_sum8 :
    sum8 [] = 0x00#8 ∧ sum8 [0x02#8, 0x00#8, 0x31#8, 0x03#8] = 0x36#8 ∧
    sum8 [0x02#8, 0xFF#8, 0xFF#8, 0x03#8] = 0x03#8 ∧ sum8 [0x02#8, 0xFA#8, 0x01#8, 0x03#8] = 0x00#8 ∧
    sum8 [0x02#8, 0xFF#8, 0x81#8, 0xFF#8, 0x00#8, 0x00#8, 0x00#8, 0x03#8] = 0x84#8 ∧
    sum8 [0xFF#8, 0xFF#8, 0xFF#8, 0xFF#8, 0xFF#8, 0xFF#8] = 0xFA#8 := by decide

/-- V44, V46, V48, V50, V51, V53, V54, V55, V58: the checks in their order (R103). -/
theorem test_verdict :
    verdict [0x02#8, 0x05#8, 0x30#8, 0x00#8, 0xAA#8, 0x00#8, 0x55#8, 0x03#8, 0x39#8] =
      .decoded ⟨0x05#8, 0x30#8, some ⟨0x00#8, 0xAA#8, 0x00#8, 0x55#8⟩⟩ ∧
    verdict [0x02#8, 0x00#8, 0x31#8, 0x03#8] = .malformedFrame ∧
    verdict [0x02#8, 0x00#8, 0x81#8, 0x01#8, 0#8, 0#8, 0#8, 0x03#8, 0x87#8, 0x00#8] = .malformedFrame ∧
    verdict [0x12#8, 0x00#8, 0x31#8, 0x03#8, 0x46#8] = .malformedFrame ∧
    verdict [0x02#8, 0x00#8, 0x31#8, 0x04#8, 0x37#8] = .malformedFrame ∧
    verdict [0x02#8, 0x00#8, 0x31#8, 0x03#8, 0x37#8] = .checksumMismatch ∧
    verdict [0x02#8, 0x00#8, 0x31#8, 0x04#8, 0x36#8] = .malformedFrame ∧
    verdict [0x02#8, 0x00#8, 0x81#8, 0x01#8, 0#8, 0#8, 0#8, 0x03#8, 0x0E#8] = .checksumMismatch ∧
    verdict [0x02#8, 0x01#8, 0x30#8, 0x03#8, 0x36#8] = .decoded ⟨0x01#8, 0x30#8, none⟩ := by decide

/-- V60 to V67: the device status (R106). -/
theorem test_device_status :
    deviceStatus (verdict openReply.bytes) = some .opened ∧
    deviceStatus (verdict [0x02#8, 0x01#8, 0x30#8, 0#8, 0#8, 0#8, 0#8, 0x03#8, 0x36#8]) = some .closed ∧
    deviceStatus (verdict [0x02#8, 0x02#8, 0x30#8, 1#8, 0#8, 1#8, 0#8, 0x03#8, 0x39#8]) = some .busy ∧
    deviceStatus (verdict [0x02#8, 0x01#8, 0x30#8, 2#8, 0#8, 0#8, 0#8, 0x03#8, 0x38#8]) = some .unrecognised ∧
    deviceStatus (verdict [0x02#8, 0x01#8, 0x30#8, 1#8, 0#8, 2#8, 0#8, 0x03#8, 0x39#8]) = some .unrecognised ∧
    deviceStatus (verdict [0x02#8, 0x00#8, 0x31#8, 0x03#8, 0x36#8]) = none := by decide

/-- V68 to V70: the hex view (R107). -/
theorem test_hex :
    hex [] = "" ∧ hex [0x02#8, 0x00#8, 0x31#8, 0x03#8, 0x36#8] = "0200310336" ∧
    hex [0x02#8, 0xFF#8, 0x80#8, 0x00#8, 0x00#8, 0x00#8, 0x00#8, 0x03#8, 0x84#8] = "02ff80000000000384" := by decide

/-- V110 and I12: `STATUS` is 0x0000 after reset and no byte of `TXBUF` has a value. -/
theorem test_reset_reads :
    readStatus State.reset = 0x0000#16 ∧ readTxbuf 0 State.reset = .error .noValue ∧
    readTxbuf 4 encoded = .ok 0x35#8 ∧ readTxbuf 5 encoded = .error .noValue := by decide

/-! ### One step of each instruction -/

/-- V14: the sum wraps; `STATUS` as P1 line 1. -/
theorem test_encode :
    frameAfter (.encode 0xFF#8 0xFF#8) State.reset = some [0x02#8, 0xFF#8, 0xFF#8, 0x03#8, 0x03#8] ∧
    statusAfter (.encode 0xFF#8 0xFF#8) State.reset = some 0x5100#16 := by decide

/-- V103: ENCODE during a send is OVERLAP and changes no frame. -/
theorem test_encode_overlap :
    statusAfter (.encode 0x00#8 0x31#8) sending = some 0x5129#16 ∧
    frameAfter (.encode 0x00#8 0x31#8) sending = some [0x02#8, 0x00#8, 0x30#8, 0x03#8, 0x35#8] := by decide

/-- V38; `STATUS` as P3 line 1. -/
theorem test_encodeExt :
    frameAfter (.encodeExt 0x00#8 0x81#8 0xF0#8) encoded =
      some [0x02#8, 0x00#8, 0x81#8, 0xF0#8, 0x00#8, 0x00#8, 0x00#8, 0x03#8, 0x76#8] ∧
    statusAfter (.encodeExt 0x00#8 0x81#8 0xF0#8) encoded = some 0x9100#16 := by decide

/-- P5 line 7: DECODE of the status reply; the frame in `TXBUF` stays. -/
theorem test_decode :
    resultAfter (.decode openReply.bytes) encoded =
      some (.verdict (.decoded ⟨0x00#8, 0x30#8, some ⟨1#8, 0#8, 0#8, 0#8⟩⟩)) ∧
    statusAfter (.decode openReply.bytes) encoded = some 0x5200#16 := by decide

/-- V71. -/
theorem test_send : statusAfter .send encoded = some 0x5109#16 := by decide

/-- V104: SEND with no frame is TX_EMPTY. -/
theorem test_send_empty : statusAfter .send State.reset = some 0x0030#16 := by decide

/-- V84: the first queued chunk ends the wait at once and the second is dropped. -/
theorem test_awaitSingle_queued :
    resultAfter (.awaitSingle 3#32) { acked with rxq := [⟨0x02#8, [0x00#8]⟩, ⟨0x00#8, [0x30#8]⟩] } =
      some (.response ⟨⟨0x02#8, [0x00#8]⟩, .malformedFrame⟩) ∧
    statusAfter (.awaitSingle 3#32) { acked with rxq := [⟨0x02#8, [0x00#8]⟩, ⟨0x00#8, [0x30#8]⟩] } =
      some 0x5700#16 := by decide

/-- V85, P1 line 4 and V105. -/
theorem test_awaitSingle_start :
    statusAfter (.awaitSingle 0#32) acked = some 0x5900#16 ∧
    statusAfter (.awaitSingle 10#32) acked = some 0x550E#16 ∧
    statusAfter (.awaitSingle 5#32) State.reset = some 0x0040#16 := by decide

/-- V90, V93 and V107's state with a wait in place of the SEND. -/
theorem test_awaitAll :
    statusAfter (.awaitAll 0#32) acked = some 0x5900#16 ∧
    statusAfter (.awaitAll 3#32) acked = some 0x550F#16 ∧
    statusAfter (.awaitAll 3#32) waitingOne = some 0x552E#16 := by decide

/-- V91: what is queued is returned with its verdict. -/
theorem test_awaitAll_queued :
    resultAfter (.awaitAll 0#32) { acked with rxq := [openReply] } =
      some (.responses ⟨openReply, .decoded ⟨0x00#8, 0x30#8, some ⟨1#8, 0#8, 0#8, 0#8⟩⟩⟩ []) := by decide

/-- A wire command's bytes in the capture window end a single wait with their verdict (R136; V40). -/
theorem test_unlock_ends_single_wait :
    resultAfter (.unlock 0x00#8 0x36#8) waitingOne =
      some (.response ⟨⟨0x02#8, [0x00#8, 0x31#8, 0x03#8, 0x36#8]⟩, .decoded ⟨0x00#8, 0x31#8, none⟩⟩) := by decide

/-- V86: a wrong sum still ends the wait. -/
theorem test_getDoorStatus_bad_sum :
    resultAfter (.getDoorStatus 0x00#8 0x36#8) waitingOne =
      some (.response ⟨⟨0x02#8, [0x00#8, 0x30#8, 0x03#8, 0x36#8]⟩, .checksumMismatch⟩) := by decide

/-- R134: in AWAIT_ALL the chunk is queued and the wait goes on (`STATUS` as V93). -/
theorem test_getBusStatus_gathered :
    statusAfter (.getBusStatus 0xF0#8 0x27#8) waitingAll = some 0x550F#16 ∧
    (afterStep (exec (.getBusStatus 0xF0#8 0x27#8) waitingAll)).map State.rxq =
      some [⟨0x02#8, [0xF0#8, 0x32#8, 0x03#8, 0x27#8]⟩] := by decide

/-- V77: a chunk that arrives in TX is discarded. -/
theorem test_broadcastRecruit_in_tx :
    (afterStep (exec (.broadcastRecruit 0xFF#8 0x00#8 0x84#8) sending)) = some sending := by decide

/-- V41: the frame by position, NEWADDR in the first byte of FIELD. -/
theorem test_assignNewAddress :
    resultAfter (.assignNewAddress 0x00#8 0x01#8 0x87#8) waitingOne =
      some (.response ⟨⟨0x02#8, [0x00#8, 0x81#8, 0x01#8, 0#8, 0#8, 0#8, 0x03#8, 0x87#8]⟩,
        .decoded ⟨0x00#8, 0x81#8, some ⟨0x01#8, 0#8, 0#8, 0#8⟩⟩⟩) := by decide

/-! ### One step on each other input -/

/-- V73, V81, V82, V93's queued chunk and V110. -/
theorem test_inputs :
    statusAfterStep (feed [.txDone] sending) = some 0x5504#16 ∧
    statusAfterStep (feed [.tick] { waitingOne with timer := 1#32 }) = some 0x550E#16 ∧
    statusAfterStep (feed [.tick] { waitingOne with timer := 2#32 }) = some 0x5900#16 ∧
    statusAfterStep (feed [.tick] { waitingAll with timer := 2#32, rxq := [noise] }) = some 0x5800#16 ∧
    statusAfterStep (feed [.rxChunk noise] waitingAll) = some 0x550F#16 ∧
    statusAfterStep (feed [.reset] haltedState) = some 0x0000#16 := by decide

/-- V74: the free number of bytes that left shows nowhere in `STATUS`. -/
theorem test_txFail : statusAfterStep (feed [.txFail] sending) = some 0x5600#16 := by decide

/-- V100 and V102: ILLEGAL_OP, and before OVERLAP. -/
theorem test_illegal_op :
    statusAfterStep (feed [.request 0x0#64 []] State.reset) = some 0x0010#16 ∧
    statusAfterStep (feed [.request 0x7#64 []] sending) = some 0x5119#16 := by decide

/-- V101: a halted block ignores what comes. -/
theorem test_halted_ignores :
    statusAfterStep (feed [.request 0x0000000000310001#64 []] haltedState) = some 0x0030#16 ∧
    statusAfterStep (feed [.txDone] haltedState) = some 0x0030#16 := by decide

/-! ### Witnesses: states and operands that meet the statements' hypotheses -/

/-- The invariant does not look at the inputs still to come. -/
theorem feed_inv {s : State} (xs : List Input) (h : BlockInv s) : BlockInv (feed xs s) :=
  ⟨h.frame, h.mode, h.timer, h.result, h.line⟩

/-- The invariant in TX. -/
theorem sending_inv : BlockInv sending where
  frame := ⟨by decide, fun _ => ⟨⟨0x00#8, 0x30#8, none⟩, rfl⟩⟩
  mode := show _ ∧ _ ∧ _ from ⟨rfl, rfl, by decide⟩
  timer := by decide
  result := show sending.txlen ≠ 0#4 by decide
  line := ⟨by decide, by decide, by intro b hb; cases hb⟩

/-- The invariant after an acknowledged send. -/
theorem acked_inv : BlockInv acked where
  frame := ⟨by decide, fun _ => ⟨⟨0x00#8, 0x30#8, none⟩, rfl⟩⟩
  mode := show acked.sent = false → acked.rxq = [] from fun _ => rfl
  timer := by decide
  result := trivial
  line := by
    refine ⟨by decide, by decide, fun b hb => ?_⟩
    obtain rfl := List.mem_singleton.1 hb
    exact ⟨_, ⟨0x00#8, 0x30#8, none⟩, rfl, List.prefix_refl _⟩

/-- The invariant at the start of a single wait. -/
theorem waitingOne_inv : BlockInv waitingOne :=
  ⟨acked_inv.frame, show _ ∧ _ ∧ _ from ⟨rfl, rfl, by decide⟩, by decide, acked_inv.result,
    ⟨by decide, by decide, acked_inv.line.2.2⟩⟩

/-- The invariant before the last tick of a single wait. -/
theorem lastTick_inv : BlockInv { waitingOne with timer := 2#32 } :=
  ⟨acked_inv.frame, show _ ∧ _ ∧ _ from ⟨rfl, rfl, by decide⟩, by decide, acked_inv.result,
    ⟨by decide, by decide, acked_inv.line.2.2⟩⟩

/-- The invariant in a gather-all wait. -/
theorem waitingAll_inv : BlockInv waitingAll :=
  ⟨acked_inv.frame, show _ ∧ _ from ⟨rfl, by decide⟩, by decide, acked_inv.result,
    ⟨by decide, by decide, acked_inv.line.2.2⟩⟩

/-- The invariant in a halted block. -/
theorem halted_inv : BlockInv haltedState where
  frame := ⟨by decide, fun h => absurd rfl h⟩
  mode := show haltedState.sent = false → haltedState.rxq = [] from fun _ => rfl
  timer := by decide
  result := trivial
  line := ⟨by decide, by decide, by intro b hb; cases hb⟩

theorem witness_DecodedFrameIsItsEncoding :
    (decodeInstr (.frame [0x02#8, 0xFF#8, 0x30#8, 0x03#8, 0x00#8])).toOption.isSome ∧
    (decodeInstr (.frame [0x02#8, 0x02#8, 0x81#8, 0x03#8, 0#8, 0#8, 0#8, 0x03#8, 0xFF#8])).toOption.isSome := by decide

/-- Each clause, the reserved OP values at their ends. -/
theorem witness_RequestFieldsAndCodes :
    (0xFFFFFFFFFFFFFFF1#64).toNat % 2 ^ 4 = 1 ∧ (2#64).toNat % 2 ^ 4 = 2 ∧ (3#64).toNat % 2 ^ 4 = 3 ∧
    (4#64).toNat % 2 ^ 4 = 4 ∧ (5#64).toNat % 2 ^ 4 = 5 ∧ (0xF6#64).toNat % 2 ^ 4 = 6 ∧
    (0x10#64).toNat % 2 ^ 4 = 0 ∧ (7#64).toNat % 2 ^ 4 = 7 ∧ 7 ≤ (0xFF#64).toNat % 2 ^ 4 := by decide

/-- A request and a frame. -/
theorem witness_StepRunsTheDecodedInstruction :
    ((feed [.request 4#64 []] encoded).pending = .request 4#64 [] :: [] ∧
      inputCode (.request 4#64 []) = some (.request 4#64 []) ∧ decodeInstr (.request 4#64 []) = .ok .send) ∧
    ((feed [.rxChunk ⟨0x02#8, [1#8, 0x31#8, 0x03#8, 0x37#8]⟩, .tick] acked).pending =
        .rxChunk ⟨0x02#8, [1#8, 0x31#8, 0x03#8, 0x37#8]⟩ :: [.tick] ∧
      inputCode (.rxChunk ⟨0x02#8, [1#8, 0x31#8, 0x03#8, 0x37#8]⟩) = some (.frame [0x02#8, 1#8, 0x31#8, 0x03#8, 0x37#8]) ∧
      decodeInstr (.frame [0x02#8, 1#8, 0x31#8, 0x03#8, 0x37#8]) = .ok (.unlock 1#8 0x37#8)) := by decide

theorem witness_WaitsWithoutInput : State.reset.pending = [] ∧ sending.pending = [] := by decide

/-- The refused report exists: TX_DONE in a wait. -/
theorem witness_StepStopsOnlyOnLineReports :
    step (feed [.txDone] waitingOne) = .refused .lineReportNotEnabled := rfl

/-- Idle and busy, not halted: the clauses of ENCODE, ENCODE_EXT and DECODE. -/
theorem witness_EncodeBuildsBasicFrame :
    (State.reset.faultCode = .noFault ∧ State.reset.state = .idle) ∧
    (sending.faultCode = .noFault ∧ sending.state ≠ .idle) := by decide

theorem witness_EncodeExtBuildsExtendedFrame :
    (acked.faultCode = .noFault ∧ acked.state = .idle) ∧
    (waitingAll.faultCode = .noFault ∧ waitingAll.state ≠ .idle) := by decide

/-- Each clause: lengths 4, 6, 8 and 10 beside 5 and 9; a wrong START, a wrong END; a wrong sum; a right one. -/
theorem witness_DecodeReportsFirstFailedCheck :
    (encoded.faultCode = .noFault ∧ encoded.state = .idle ∧ waitingOne.faultCode = .noFault ∧ waitingOne.state ≠ .idle) ∧
    (∀ n ∈ [0, 4, 6, 8, 10], (List.replicate n 0#8).length ≠ 5 ∧ (List.replicate n 0#8).length ≠ 9) ∧
    (verdict [0x12#8, 0#8, 0x31#8, 0x03#8, 0x46#8] = .malformedFrame ∧
      verdict [0x02#8, 0#8, 0x31#8, 0#8, 0#8, 0#8, 0#8, 0x04#8, 0x37#8] = .malformedFrame) ∧
    verdict [0x02#8, 0#8, 0x31#8, 0x03#8, 0x37#8] = .checksumMismatch ∧
    verdict openReply.bytes = .decoded ⟨0#8, 0x30#8, some ⟨1#8, 0#8, 0#8, 0#8⟩⟩ ∧
    verdict [0x02#8, 0#8, 0x31#8, 0x03#8, 0x36#8] = .decoded ⟨0#8, 0x31#8, none⟩ := by decide

theorem witness_RejectedBytesLeaveNoTrace :
    encoded.state = .idle ∧ encoded.faultCode = .noFault ∧
    ∃ t u, exec (.decode []) encoded = .next t ∧ exec (.decode [0x12#8, 0#8, 0x31#8, 0x03#8, 0x46#8]) encoded = .next u ∧
      resultKind t.result ≠ 2#4 ∧ resultKind t.result = resultKind u.result :=
  ⟨rfl, rfl, _, _, rfl, rfl, by decide, by decide⟩

theorem witness_EncodedFramesDecodeToTheirFields :
    acked.state = .idle ∧ acked.faultCode = .noFault := by decide

/-- The changed byte at each end of each range, in both lengths. -/
theorem witness_OneByteErrorIsCaught :
    (∀ i ∈ [0, 1, 2, 3, 4], ∃ f, verdict [0x02#8, 0#8, 0x31#8, 0x03#8, 0x36#8] = .decoded f ∧ i < 5 ∧
      [0x02#8, 0#8, 0x31#8, 0x03#8, 0x36#8][i]? ≠ some 0xEE#8) ∧
    (∀ i ∈ [0, 1, 6, 7, 8], ∃ f, verdict openReply.bytes = .decoded f ∧ i < 9 ∧ openReply.bytes[i]? ≠ some 0xEE#8) :=
  ⟨fun i hi => ⟨⟨0#8, 0x31#8, none⟩, rfl, by revert i; decide⟩,
   fun i hi => ⟨⟨0#8, 0x30#8, some ⟨1#8, 0#8, 0#8, 0#8⟩⟩, rfl, by revert i; decide⟩⟩

/-- V58 and V59, and a pair of changes in a nine-byte frame. -/
theorem witness_CompensatingErrorsPass :
    (verdict ([0x02#8] ++ [0x00#8, 0x31#8] ++ [0x03#8, 0x36#8]) = .decoded ⟨0#8, 0x31#8, none⟩ ∧
      ([0x01#8, 0x30#8].map BitVec.toNat).sum % 256 = ([0x00#8, 0x31#8].map BitVec.toNat).sum % 256 ∧
      ([0x31#8, 0x00#8].map BitVec.toNat).sum % 256 = ([0x00#8, 0x31#8].map BitVec.toNat).sum % 256) ∧
    (verdict ([0x02#8] ++ [0#8, 0x30#8, 1#8, 0#8, 0#8, 0#8] ++ [0x03#8, 0x36#8]) =
        .decoded ⟨0#8, 0x30#8, some ⟨1#8, 0#8, 0#8, 0#8⟩⟩ ∧
      ([0#8, 0x30#8, 0xFF#8, 2#8, 0#8, 0#8].map BitVec.toNat).sum % 256 =
        ([0#8, 0x30#8, 1#8, 0#8, 0#8, 0#8].map BitVec.toNat).sum % 256) := by decide

theorem witness_HexViewIsFaithful : hex [0x0A#8] = "0a" ∧ hex [0xA0#8] = "a0" := by decide

theorem witness_SendStartsTransmission :
    (encoded.faultCode = .noFault ∧ encoded.state = .idle ∧ encoded.txlen ≠ 0#4) ∧
    (State.reset.faultCode = .noFault ∧ State.reset.state = .idle ∧ State.reset.txlen = 0#4) ∧
    (sending.faultCode = .noFault ∧ sending.state ≠ .idle) := by decide

theorem witness_TxDoneAcknowledges :
    (BlockInv (feed [.txDone] sending) ∧ (feed [.txDone] sending).faultCode = .noFault ∧
      (feed [.txDone] sending).state = .tx) ∧
    ((feed [.txDone] acked).faultCode = .noFault ∧ (feed [.txDone] acked).state ≠ .tx) :=
  ⟨⟨feed_inv _ sending_inv, rfl, rfl⟩, by decide⟩

theorem witness_TxFailReportsIoError :
    (BlockInv (feed [.txFail] sending) ∧ (feed [.txFail] sending).faultCode = .noFault ∧
      (feed [.txFail] sending).state = .tx) ∧
    ((feed [.txFail] waitingAll).faultCode = .noFault ∧ (feed [.txFail] waitingAll).state ≠ .tx) :=
  ⟨⟨feed_inv _ sending_inv, rfl, rfl⟩, by decide⟩

/-- Each branch: halted, TX, both waits, idle with and without a send to answer. -/
theorem witness_ChunksAreCapturedInTheWindowOnly :
    (∀ s ∈ [haltedState, sending, waitingOne, waitingAll, acked, encoded],
      (feed [.rxChunk noise] s).pending = .rxChunk noise :: []) ∧
    acked.sent = true ∧ encoded.sent = false := by decide

/-- Each clause; a chunk queued, none with T = 0, none with T = 1. -/
theorem witness_AwaitSingleStartsOrEnds :
    (acked.faultCode = .noFault ∧ acked.state = .idle ∧ acked.sent = true ∧ acked.rxq = [] ∧
      (afterStep (exec (.awaitSingle 1#32) acked)).map State.state = some .awaitSingle ∧
      resultAfter (.awaitSingle 0#32) acked = some .noResponse) ∧
    (({ acked with rxq := [noise] } : State).sent = true ∧
      resultAfter (.awaitSingle 1#32) { acked with rxq := [noise] } = some (.response ⟨noise, .malformedFrame⟩)) ∧
    (encoded.faultCode = .noFault ∧ encoded.state = .idle ∧ encoded.sent = false) ∧
    (waitingOne.faultCode = .noFault ∧ waitingOne.state ≠ .idle) := by decide

theorem witness_AwaitAllStartsOrEnds :
    (acked.faultCode = .noFault ∧ acked.state = .idle ∧ acked.sent = true ∧
      (afterStep (exec (.awaitAll 1#32) acked)).map State.state = some .awaitAll ∧
      resultAfter (.awaitAll 0#32) acked = some .noResponse) ∧
    (State.reset.faultCode = .noFault ∧ State.reset.state = .idle ∧ State.reset.sent = false) ∧
    (sending.faultCode = .noFault ∧ sending.state ≠ .idle) := by decide

/-- Each clause: no wait; a tick before the last; the last tick of each wait. -/
theorem witness_TickCountsAndEndsWaits :
    haltedState.faultCode ≠ .noFault ∧ acked.state = .idle ∧ sending.state = .tx ∧
    (waitingOne.faultCode = .noFault ∧ waitingOne.state = .awaitSingle ∧ waitingOne.timer + 1#32 ≠ waitingOne.tlimit) ∧
    (({ waitingOne with timer := 2#32 } : State).timer + 1#32 = waitingOne.tlimit) ∧
    (waitingAll.faultCode = .noFault ∧ waitingAll.state = .awaitAll ∧
      ({ waitingAll with timer := 2#32 } : State).timer + 1#32 = waitingAll.tlimit) := by decide

/-- A window of three ticks and one of one tick. -/
theorem witness_SingleWaitTimesOut :
    (waitingOne.timer < waitingOne.tlimit ∧ waitingOne.timer.toNat + 3 = waitingOne.tlimit.toNat) ∧
    (feed [.tick, .tick, .tick] waitingOne).pending = List.replicate 3 .tick ++ [] ∧
    (feed [.tick, .tick, .tick] waitingOne).state = .awaitSingle ∧
    (feed [.tick, .tick, .tick] waitingOne).faultCode = .noFault ∧
    ({ waitingOne with timer := 2#32 } : State).timer.toNat + 1 = waitingOne.tlimit.toNat := by decide

/-- At once, and after the most ticks a window of three allows. -/
theorem witness_SingleWaitReturnsFirstChunk :
    (∀ k ∈ [0, 2], waitingOne.timer.toNat + k < waitingOne.tlimit.toNat ∧
      (feed (List.replicate k .tick ++ [.rxChunk openReply]) waitingOne).pending =
        List.replicate k .tick ++ .rxChunk openReply :: []) ∧
    waitingOne.state = .awaitSingle ∧ waitingOne.faultCode = .noFault := by decide

/-- Chunks before, between and after the ticks of a window of three. -/
theorem witness_GatherWindowReturnsEveryChunkInOrder :
    waitingAll.state = .awaitAll ∧ waitingAll.faultCode = .noFault ∧ waitingAll.timer < waitingAll.tlimit ∧
    (∀ y ∈ [Input.rxChunk noise, .tick, .rxChunk openReply, .tick, .rxChunk noise],
      y = .tick ∨ ∃ c, y = .rxChunk c) ∧
    waitingAll.timer.toNat + [Input.rxChunk noise, .tick, .rxChunk openReply, .tick, .rxChunk noise].count .tick + 1 =
      waitingAll.tlimit.toNat ∧
    (feed ([.rxChunk noise, .tick, .rxChunk openReply, .tick, .rxChunk noise] ++ [.tick]) waitingAll).pending =
      [.rxChunk noise, .tick, .rxChunk openReply, .tick, .rxChunk noise] ++ .tick :: [] := by
  refine ⟨rfl, rfl, by decide, fun y hy => ?_, by decide, rfl⟩
  simp only [List.mem_cons, List.not_mem_nil, or_false] at hy
  rcases hy with rfl | rfl | rfl | rfl | rfl <;> simp

theorem witness_WireCommandsAreCaptured :
    (acked.faultCode = .noFault ∧ acked.state = .idle ∧ acked.sent = true) ∧
    (waitingAll.faultCode = .noFault ∧ waitingAll.state = .awaitAll) := by decide

/-- One command of each form. -/
theorem witness_WireCommandsEndASingleWait :
    (WellFormed (.unlock 1#8 0x37#8) ∧ encodeInstr (.unlock 1#8 0x37#8) =
      .frame (Chunk.bytes ⟨0x02#8, [1#8, 0x31#8, 0x03#8, 0x37#8]⟩)) ∧
    (WellFormed (.assignNewAddress 0#8 1#8 0x87#8) ∧ encodeInstr (.assignNewAddress 0#8 1#8 0x87#8) =
      .frame (Chunk.bytes ⟨0x02#8, [0#8, 0x81#8, 1#8, 0#8, 0#8, 0#8, 0x03#8, 0x87#8]⟩)) ∧
    waitingOne.faultCode = .noFault ∧ waitingOne.state = .awaitSingle := by decide

theorem witness_WireCommandsElsewhereAreDiscarded :
    encodeInstr (.unlock 1#8 0x37#8) = .frame [0x02#8, 1#8, 0x31#8, 0x03#8, 0x37#8] ∧
    haltedState.faultCode ≠ .noFault ∧ sending.state = .tx ∧ (encoded.state = .idle ∧ encoded.sent = false) := by decide

/-- Both premises on the pending inputs, from a block that has sent before. -/
theorem witness_EncodedFramesReachTheBus :
    acked.state = .idle ∧ acked.faultCode = .noFault ∧
    (feed [.request (reqWord 0#32 0#8 0x31#8 1#8 1#4) [], .request 4#64 [], .txDone, .tick] acked).pending =
      [.request (reqWord 0#32 0#8 0x31#8 1#8 1#4) [], .request 4#64 [], .txDone] ++ [.tick] ∧
    (feed [.request (reqWord 0#32 1#8 0x81#8 0#8 2#4) [], .request 4#64 [], .txDone] acked).pending =
      [.request (reqWord 0#32 1#8 0x81#8 0#8 2#4) [], .request 4#64 [], .txDone] ++ [] := by decide

/-- The reserved OP values 0x0, 0x7 and 0xF, idle and busy. -/
theorem witness_IllegalOpFaultsInAnyState :
    (0x10#64).toNat % 16 = 0 ∧ 7 ≤ (0x7#64).toNat % 16 ∧ 7 ≤ (0xFF#64).toNat % 16 ∧
    (feed [.request 0x7#64 []] sending).pending = .request 0x7#64 [] :: [] ∧
    State.reset.faultCode = .noFault ∧ sending.faultCode = .noFault := by decide

/-- The first and the last legal OP, in each busy state. -/
theorem witness_OverlapFaultsWhileBusy :
    (1 ≤ (1#64).toNat % 16 ∧ (1#64).toNat % 16 ≤ 6 ∧ 1 ≤ (0xF6#64).toNat % 16 ∧ (0xF6#64).toNat % 16 ≤ 6) ∧
    ∀ s ∈ [sending, waitingOne, waitingAll], s.faultCode = .noFault ∧ s.state ≠ .idle ∧
      (feed [.request 6#64 []] s).pending = .request 6#64 [] :: [] := by decide

/-- Each branch: halted; illegal; busy; SEND with no frame; a wait with no send; none. -/
theorem witness_FaultPriority :
    (∀ s ∈ [haltedState, sending, State.reset, acked], (feed [.request 4#64 []] s).pending = .request 4#64 [] :: []) ∧
    haltedState.faultCode ≠ .noFault ∧ sending.state ≠ .idle ∧ State.reset.txlen = 0#4 ∧ State.reset.sent = false ∧
    acked.txlen ≠ 0#4 ∧ acked.sent = true := by decide

/-- A step that faults, during a send and outside one, and a halted block's step. -/
theorem witness_FaultEntryAndHalt :
    (∀ s ∈ [sending, waitingOne], s.faultCode = .noFault ∧
      ∃ t, step (feed [.request 1#64 []] s) = .next t ∧ t.faultCode ≠ .noFault) ∧
    (haltedState.faultCode ≠ .noFault ∧ Input.tick ≠ .reset ∧ ∃ t, step (feed [.tick] haltedState) = .next t) := by
  refine ⟨fun s hs => ?_, by decide, by decide, _, rfl⟩
  simp only [List.mem_cons, List.not_mem_nil, or_false] at hs
  rcases hs with rfl | rfl <;> exact ⟨rfl, _, rfl, by decide⟩

/-- Reset and a fault during a transmission, and a fault outside one. -/
theorem witness_InterruptedTransmissionLeavesFirstBytes :
    (∃ t, step (feed [.reset] sending) = .next t ∧ sending.line ≠ []) ∧
    (∃ t, step (feed [.request 4#64 []] sending) = .next t ∧ sending.faultCode = .noFault ∧ t.faultCode ≠ .noFault) ∧
    (∃ t, step (feed [.request 4#64 []] waitingOne) = .next t ∧ waitingOne.faultCode = .noFault ∧
      t.faultCode ≠ .noFault ∧ waitingOne.line = []) :=
  ⟨⟨_, rfl, by decide⟩, ⟨_, rfl, by decide⟩, ⟨_, rfl, by decide⟩⟩

theorem witness_HaltLastsUntilReset :
    (feed [.request 1#64 [], .tick, .txDone] haltedState).faultCode ≠ .noFault ∧
    Input.reset ∉ (feed [.request 1#64 [], .tick, .txDone] haltedState).pending := by decide

/-- In each mode, and halted. -/
theorem witness_StepKeepsInvariant :
    (BlockInv (feed [.request 1#64 []] acked) ∧ ∃ t, step (feed [.request 1#64 []] acked) = .next t) ∧
    (BlockInv (feed [.txFail] sending) ∧ ∃ t, step (feed [.txFail] sending) = .next t) ∧
    (BlockInv (feed [.tick] { waitingOne with timer := 2#32 }) ∧
      ∃ t, step (feed [.tick] { waitingOne with timer := 2#32 }) = .next t) ∧
    (BlockInv (feed [.rxChunk noise] waitingAll) ∧ ∃ t, step (feed [.rxChunk noise] waitingAll) = .next t) ∧
    (BlockInv (feed [.reset] haltedState) ∧ ∃ t, step (feed [.reset] haltedState) = .next t) :=
  ⟨⟨feed_inv _ acked_inv, _, rfl⟩, ⟨feed_inv _ sending_inv, _, rfl⟩, ⟨feed_inv _ lastTick_inv, _, rfl⟩, ⟨feed_inv _ waitingAll_inv, _, rfl⟩,
   ⟨feed_inv _ halted_inv, _, rfl⟩⟩

/-- A step that writes `TXBUF`, and one that empties it. -/
theorem witness_OnlyEncodersWriteTxbuf :
    (∃ t, step (feed [.request 0x1102#64 []] encoded) = .next t ∧ t.txlen ≠ encoded.txlen) ∧
    (∃ t, step (feed [.reset] encoded) = .next t ∧ encoded.txlen ≠ 0#4 ∧ t.txlen = 0#4) :=
  ⟨⟨_, rfl, by decide⟩, ⟨_, rfl, by decide, by decide⟩⟩

/-- `SENT` set, cleared by SEND and cleared by each way a wait ends. -/
theorem witness_SentFollowsAckAndWait :
    (BlockInv (feed [.txDone] sending) ∧ ∃ t, step (feed [.txDone] sending) = .next t ∧ sending.sent = false ∧ t.sent = true) ∧
    (BlockInv (feed [.request 4#64 []] acked) ∧
      ∃ t, step (feed [.request 4#64 []] acked) = .next t ∧ acked.sent = true ∧ t.sent = false) ∧
    (BlockInv (feed [.rxChunk noise] waitingOne) ∧
      ∃ t, step (feed [.rxChunk noise] waitingOne) = .next t ∧ waitingOne.sent = true ∧ t.sent = false) ∧
    (BlockInv (feed [.tick] { waitingOne with timer := 2#32 }) ∧
      ∃ t, step (feed [.tick] { waitingOne with timer := 2#32 }) = .next t ∧ waitingOne.sent = true ∧ t.sent = false) ∧
    (BlockInv (feed [.request 6#64 []] acked) ∧
      ∃ t, step (feed [.request 6#64 []] acked) = .next t ∧ acked.sent = true ∧ t.sent = false) :=
  ⟨⟨feed_inv _ sending_inv, _, rfl, by decide, by decide⟩, ⟨feed_inv _ acked_inv, _, rfl, by decide, by decide⟩,
   ⟨feed_inv _ waitingOne_inv, _, rfl, by decide, by decide⟩, ⟨feed_inv _ lastTick_inv, _, rfl, by decide, by decide⟩,
   ⟨feed_inv _ acked_inv, _, rfl, by decide, by decide⟩⟩

/-- A change out of each mode. -/
theorem witness_ModeChangesOnlyAsTabled :
    (∃ t, step (feed [.request 0x100000006#64 []] acked) = .next t ∧ t.state ≠ acked.state) ∧
    (∃ t, step (feed [.txDone] sending) = .next t ∧ t.state ≠ sending.state) ∧
    (∃ t, step (feed [.rxChunk noise] waitingOne) = .next t ∧ t.state ≠ waitingOne.state) ∧
    (∃ t, step (feed [.tick] { waitingAll with timer := 2#32 }) = .next t ∧ t.state ≠ waitingAll.state) :=
  ⟨⟨_, rfl, by decide⟩, ⟨_, rfl, by decide⟩, ⟨_, rfl, by decide⟩, ⟨_, rfl, by decide⟩⟩

/-- A tick of a wait, and a wait request. -/
theorem witness_TimerWrittenByWaitsOnly :
    (BlockInv (feed [.tick] waitingOne) ∧ ∃ t, step (feed [.tick] waitingOne) = .next t ∧ t.timer ≠ waitingOne.timer) ∧
    (BlockInv (feed [.request 0x500000005#64 []] acked) ∧
      ∃ t, step (feed [.request 0x500000005#64 []] acked) = .next t ∧ t.tlimit ≠ acked.tlimit) :=
  ⟨⟨feed_inv _ waitingOne_inv, _, rfl, by decide⟩, ⟨feed_inv _ acked_inv, _, rfl, by decide⟩⟩

/-- A legal SEND and a legal wait. -/
theorem witness_CorrectUseNeverFails :
    (∃ t, step (feed [.request 4#64 []] encoded) = .next t ∧ ¬ Failed encoded ∧
      inputOp (.request 4#64 []) = some 4 ∧ encoded.state = .idle ∧ encoded.txlen ≠ 0#4) ∧
    (∃ t, step (feed [.request 6#64 []] acked) = .next t ∧ ¬ Failed acked ∧
      inputOp (.request 6#64 []) = some 6 ∧ acked.state = .idle ∧ acked.sent = true) :=
  ⟨⟨_, rfl, by decide⟩, ⟨_, rfl, by decide⟩⟩

/-- Reset during a send and while halted. -/
theorem witness_ResetFromAnyState :
    (feed [.reset] sending).pending = .reset :: [] ∧ (feed [.reset, .tick] haltedState).pending = .reset :: [.tick] := by decide

theorem witness_StatusWordFields : BlockInv (feed [] sending) ∧ BlockInv (feed [] haltedState) :=
  ⟨feed_inv _ sending_inv, feed_inv _ halted_inv⟩

/-- The last byte of the frame and the first beyond it. -/
theorem witness_HostReadsTheFrameOnly :
    BlockInv (feed [] sending) ∧ 4 < (feed [] sending).txlen.toNat ∧ (feed [] sending).txlen.toNat ≤ 5 :=
  ⟨feed_inv _ sending_inv, by decide⟩

/-- The parameters of the host sequences, with the recruit call's wait left to choose. -/
def someParams (w : RecruitAwait) : Config.Params := ⟨1, 10#32, 5#32, ⟨0, 0, 0, 0, 0⟩, 0x00#8, w⟩

theorem witness_CallsSendTheirFrame : encoded.state = .idle ∧ encoded.faultCode = .noFault := by decide

theorem witness_CallsStopOnIoError : acked.state = .idle ∧ acked.faultCode = .noFault := by decide

theorem witness_SingleStatusCallReturnsTheReply :
    encoded.state = .idle ∧ encoded.faultCode = .noFault ∧ (someParams .noWait).tSingle ≠ 0#32 := by decide

theorem witness_BusStatusCallWithNoReplySucceeds : acked.state = .idle ∧ acked.faultCode = .noFault := by decide

theorem witness_RecruitCallWithoutWaitEndsWithAck :
    encoded.state = .idle ∧ encoded.faultCode = .noFault ∧ (someParams .noWait).recruitAwait = .noWait := by decide

theorem witness_CallsStopOnOverlap :
    encoded.state = .idle ∧ encoded.faultCode = .noFault ∧
    (1 ≤ (1#64).toNat % 16 ∧ (1#64).toNat % 16 ≤ 6 ∧ 1 ≤ (0xF6#64).toNat % 16 ∧ (0xF6#64).toNat % 16 ≤ 6) := by decide

/-- The state of V106: halted by a wait after IO_ERROR. -/
def failedSend : State := { encoded with result := .ioError, faultCode := .awaitNoSend }

/-- A busy block, and a halted one with an IO_ERROR still in RESULT. -/
theorem witness_CallsBeginOnAReadyBlockOnly :
    sending.state ≠ .idle ∧ failedSend.state = .idle ∧ failedSend.faultCode ≠ .noFault ∧
    runCall [.host, .host] (beginCall (someParams .noWait) .getBusStatus) failedSend = none := by decide

/-- R171: IO_ERROR of the call's own send. R177: once the block has been reset the call of the test above begins. -/
theorem test_call_after_reset :
    (runCall [.host, .outside .reset, .host, .host, .outside .txFail] (beginCall (someParams .noWait) .getBusStatus)
      failedSend).map Prod.fst = some (.failure "IOError") := by decide

/-- Each KIND with a payload, and one without. -/
theorem witness_HostReadsThePayloadOfTheKindOnly :
    resultKind (.response ⟨noise, .malformedFrame⟩) = 7#4 ∧ resultKind (.responses ⟨noise, .malformedFrame⟩ []) = 8#4 ∧
    resultKind (.verdict .malformedFrame) = 3#4 ∧ resultKind .ack = 5#4 ∧
    verdictKind .checksumMismatch ≠ 2#4 ∧ verdictKind (verdict openReply.bytes) = 2#4 := by decide

/-- An encoding of each width; ten bytes are a frame's number too. -/
theorem witness_TableNumbersAreReadBack :
    encodeInstr .send = .request 4#64 [] ∧
    encodeInstr (.unlock 0x00#8 0x36#8) = .frame [0x02#8, 0x00#8, 0x31#8, 0x03#8, 0x36#8] ∧
    encodeInstr (.assignNewAddress 0#8 1#8 0x87#8) =
      .frame [0x02#8, 0#8, 0x81#8, 1#8, 0#8, 0#8, 0#8, 0x03#8, 0x87#8] ∧
    (List.replicate 10 0x02#8).length ≠ 8 := by decide

end Sys2Proof.Tests
end

section
/-!
What one input does to the block, as a relation with one constructor for each thing that can happen (41_transport.md R130 to
R144, 60_exceptions.md R205 to R210), and the inversion of `step` into it. The statements about every step are case splits
over this relation.
-/

namespace Sys2Proof.Machine

/-! ### Requests by their operation code -/

theorem reqOp_toNat (w : ReqWord) : (reqOp w).toNat = w.toNat % 16 := by
  simp [reqOp, BitVec.extractLsb'_toNat]

theorem reqT_eq_ofNat (w : ReqWord) : reqT w = BitVec.ofNat 32 (w.toNat / 2 ^ 32) := by
  apply BitVec.eq_of_toNat_eq
  simp [reqT, BitVec.extractLsb'_toNat, Nat.shiftRight_eq_div_pow]

/-- The instruction a request word decodes to, by its operation code (R84). -/
theorem decodeInstr_request_cases {w : ReqWord} {bs : List Byte} {i : Instr}
    (h : decodeInstr (.request w bs) = .ok i) :
    (w.toNat % 16 = 1 ∧ i = .encode (reqA w) (reqC w)) ∨
    (w.toNat % 16 = 2 ∧ i = .encodeExt (reqA w) (reqC w) (reqN w)) ∨
    (w.toNat % 16 = 3 ∧ i = .decode bs) ∨
    (w.toNat % 16 = 4 ∧ i = .send) ∨
    (w.toNat % 16 = 5 ∧ i = .awaitSingle (reqT w)) ∨
    (w.toNat % 16 = 6 ∧ i = .awaitAll (reqT w)) := by
  rw [← reqOp_toNat]
  simp only [decodeInstr] at h
  unfold decodeRequest at h
  split at h <;> simp_all

/-! ### The effect of one input -/

/-- The results a wait can end with: NO_RESPONSE, or chunks each with its own verdict (R27, R136, R137, R139). -/
inductive WaitResult : Result → Prop
  | noResponse : WaitResult .noResponse
  | response (c : Chunk) : WaitResult (.response (reply c))
  | responses (c : Chunk) (cs : List Chunk) : WaitResult (.responses (reply c) (cs.map reply))

theorem waitResult_gatherResult (cs : List Chunk) : WaitResult (gatherResult cs) := by
  cases cs with
  | nil => exact .noResponse
  | cons c cs => exact .responses c cs

/-- `Effect s x t`: taking the input `x` in the state `s` can give the state `t`. -/
inductive Effect (s : State) : Input → State → Prop
  | ignoredByHalt {x : Input} (halted : s.faultCode ≠ .noFault) (notReset : x ≠ .reset) : Effect s x s
  | chunkDropped (c : Chunk) (running : s.faultCode = .noFault)
      (outside : s.state = .tx ∨ s.state = .idle ∧ s.sent = false) : Effect s (.rxChunk c) s
  | tickIgnored (running : s.faultCode = .noFault) (outside : s.state = .idle ∨ s.state = .tx) : Effect s .tick s
  | fault (w : ReqWord) (bs : List Byte) (k : FaultCode) (running : s.faultCode = .noFault)
      (code : k ≠ .noFault) : Effect s (.request w bs) (raiseFault k s)
  | encode (w : ReqWord) (bs : List Byte) (running : s.faultCode = .noFault) (idle : s.state = .idle)
      (op : w.toNat % 16 = 1) :
      Effect s (.request w bs) (buildFrame (basicFrame (reqA w) (reqC w)) s)
  | encodeExt (w : ReqWord) (bs : List Byte) (running : s.faultCode = .noFault) (idle : s.state = .idle)
      (op : w.toNat % 16 = 2) :
      Effect s (.request w bs) (buildFrame (extFrame (reqA w) (reqC w) (reqN w)) s)
  | decode (w : ReqWord) (bs : List Byte) (running : s.faultCode = .noFault) (idle : s.state = .idle)
      (op : w.toNat % 16 = 3) : Effect s (.request w bs) (decodeBytes bs s)
  | send (w : ReqWord) (bs : List Byte) (running : s.faultCode = .noFault) (idle : s.state = .idle)
      (op : w.toNat % 16 = 4) (loaded : s.txlen ≠ 0#4) : Effect s (.request w bs) (startSend s)
  | awaitSingleStarts (w : ReqWord) (bs : List Byte) (running : s.faultCode = .noFault)
      (idle : s.state = .idle) (op : w.toNat % 16 = 5) (sent : s.sent = true)
      (empty : s.rxq = []) (window : reqT w ≠ 0#32) :
      Effect s (.request w bs) (enterState .awaitSingle (startWait (reqT w) s))
  | awaitAllStarts (w : ReqWord) (bs : List Byte) (running : s.faultCode = .noFault)
      (idle : s.state = .idle) (op : w.toNat % 16 = 6) (sent : s.sent = true) (window : reqT w ≠ 0#32) :
      Effect s (.request w bs) (enterState .awaitAll (startWait (reqT w) s))
  | waitEndsAtOnce (w : ReqWord) (bs : List Byte) (r : Result) (running : s.faultCode = .noFault)
      (idle : s.state = .idle) (op : w.toNat % 16 = 5 ∨ w.toNat % 16 = 6) (sent : s.sent = true)
      (result : WaitResult r) :
      Effect s (.request w bs) (endWait r (startWait (reqT w) s))
  | txDone (running : s.faultCode = .noFault) (inTx : s.state = .tx) : Effect s .txDone (txDone s)
  | txFail (running : s.faultCode = .noFault) (inTx : s.state = .tx) : Effect s .txFail (txFail s)
  | chunkCaptured (c : Chunk) (running : s.faultCode = .noFault)
      (window : s.state = .idle ∧ s.sent = true ∨ s.state = .awaitAll) : Effect s (.rxChunk c) (enqueue c s)
  | chunkEndsWait (c : Chunk) (running : s.faultCode = .noFault) (waiting : s.state = .awaitSingle) :
      Effect s (.rxChunk c) (endWait (.response (reply c)) (enqueue c s))
  | tickCounted (running : s.faultCode = .noFault) (waiting : s.state = .awaitSingle ∨ s.state = .awaitAll)
      (notLast : s.timer + 1#32 ≠ s.tlimit) : Effect s .tick (countTick s)
  | tickEndsWait (r : Result) (running : s.faultCode = .noFault)
      (waiting : s.state = .awaitSingle ∨ s.state = .awaitAll)
      (last : s.timer + 1#32 = s.tlimit) (result : WaitResult r) :
      Effect s .tick (endWait r (countTick s))
  | reset : Effect s .reset (resetBlock s)

section requests

variable {s : State} {w : ReqWord} {bs : List Byte} (running : s.faultCode = .noFault) (idle : s.state = .idle)
include running idle

theorem effect_startSend (op : w.toNat % 16 = 4) : Effect s (.request w bs) (startSend s) := by
  by_cases loaded : s.txlen = 0#4
  · rw [startSend_empty s loaded]
    exact .fault w bs _ running (by decide)
  · exact .send w bs running idle op loaded

theorem effect_startAwaitSingle (op : w.toNat % 16 = 5) :
    Effect s (.request w bs) (startAwaitSingle (reqT w) s) := by
  cases sent : s.sent with
  | false =>
    rw [startAwaitSingle_unsent s _ sent]
    exact .fault w bs _ running (by decide)
  | true =>
    cases queue : s.rxq with
    | cons c cs =>
      rw [startAwaitSingle_queued s _ c cs sent queue]
      exact .waitEndsAtOnce w bs _ running idle (.inl op) sent (.response c)
    | nil =>
      rw [startAwaitSingle_empty s _ sent queue]
      split
      · exact .waitEndsAtOnce w bs _ running idle (.inl op) sent .noResponse
      · next window => exact .awaitSingleStarts w bs running idle op sent queue window

theorem effect_startAwaitAll (op : w.toNat % 16 = 6) :
    Effect s (.request w bs) (startAwaitAll (reqT w) s) := by
  cases sent : s.sent with
  | false =>
    rw [startAwaitAll_unsent s _ sent]
    exact .fault w bs _ running (by decide)
  | true =>
    rw [startAwaitAll_sent s _ sent]
    split
    · exact .waitEndsAtOnce w bs _ running idle (.inr op) sent (waitResult_gatherResult _)
    · next window => exact .awaitAllStarts w bs running idle op sent window

theorem effect_requestOp {i : Instr} (decoded : decodeInstr (.request w bs) = .ok i) :
    Effect s (.request w bs) (requestOp i s) := by
  rcases decodeInstr_request_cases decoded with
    ⟨op, rfl⟩ | ⟨op, rfl⟩ | ⟨op, rfl⟩ | ⟨op, rfl⟩ | ⟨op, rfl⟩ | ⟨op, rfl⟩
  · exact .encode w bs running idle op
  · exact .encodeExt w bs running idle op
  · exact .decode w bs running idle op
  · exact effect_startSend running idle op
  · exact effect_startAwaitSingle running idle op
  · exact effect_startAwaitAll running idle op

end requests

/-- A legal request: ignored, OVERLAP, or its operation (R206, R209, R210). -/
theorem effect_takeRequest {s : State} {w : ReqWord} {bs : List Byte} {i : Instr}
    (decoded : decodeInstr (.request w bs) = .ok i) :
    Effect s (.request w bs) (takeRequest (requestOp i) s) := by
  by_cases running : s.faultCode = .noFault
  · by_cases idle : s.state = .idle
    · rw [takeRequest_idle s _ running idle]
      exact effect_requestOp running idle decoded
    · rw [takeRequest_busy s _ running idle]
      exact .fault w bs _ running (by decide)
  · rw [takeRequest_halted s _ running]
    exact .ignoredByHalt running (by simp)

/-- An illegal request: ignored or ILLEGAL_OP (R205, R209). -/
theorem effect_illegalRequest (s : State) (w : ReqWord) (bs : List Byte) :
    Effect s (.request w bs) (illegalRequest s) := by
  by_cases running : s.faultCode = .noFault
  · rw [illegalRequest_running s running]
    exact .fault w bs _ running (by decide)
  · rw [illegalRequest_halted s running]
    exact .ignoredByHalt running (by simp)

theorem effect_rxChunk (s : State) (c : Chunk) : Effect s (.rxChunk c) (rxChunk c s) := by
  by_cases running : s.faultCode = .noFault
  · cases mode : s.state with
    | idle =>
      rw [rxChunk_idle s c running mode]
      split
      · next sent => exact .chunkCaptured c running (.inl ⟨mode, sent⟩)
      · next sent => exact .chunkDropped c running (.inr ⟨mode, by simpa using sent⟩)
    | tx =>
      rw [rxChunk_tx s c mode]
      exact .chunkDropped c running (.inl mode)
    | awaitSingle =>
      rw [rxChunk_awaitSingle s c running mode]
      exact .chunkEndsWait c running mode
    | awaitAll =>
      rw [rxChunk_awaitAll s c running mode]
      exact .chunkCaptured c running (.inr mode)
  · rw [rxChunk_halted s c running]
    exact .ignoredByHalt running (by simp)

theorem effect_tick (s : State) : Effect s .tick (tick s) := by
  by_cases running : s.faultCode = .noFault
  · cases mode : s.state with
    | idle =>
      rw [tick_idle s (.inr (.inl mode))]
      exact .tickIgnored running (.inl mode)
    | tx =>
      rw [tick_idle s (.inr (.inr mode))]
      exact .tickIgnored running (.inr mode)
    | awaitSingle =>
      rw [tick_awaitSingle s running mode]
      split
      · next last => exact .tickEndsWait _ running (.inl mode) last .noResponse
      · next notLast => exact .tickCounted running (.inl mode) notLast
    | awaitAll =>
      rw [tick_awaitAll s running mode]
      split
      · next last => exact .tickEndsWait _ running (.inr mode) last (waitResult_gatherResult _)
      · next notLast => exact .tickCounted running (.inr mode) notLast
  · rw [tick_idle s (.inl running)]
    exact .ignoredByHalt running (by simp)

/-- A step on a pending input has one of the effects of that input. -/
theorem effect_of_step {s t : State} {x : Input} {xs : List Input} (hp : s.pending = x :: xs)
    (hst : step s = .next t) : Effect (setPending xs s) x t := by
  rcases step_next_cases hst with ⟨hnil, -⟩ | ⟨x', xs', hp', h⟩
  · simp [hp] at hnil
  obtain ⟨rfl, rfl⟩ : x = x' ∧ xs = xs' := by simpa [hp] using hp'
  rcases h with ⟨w, bs, i, rfl, hd, rfl⟩ | ⟨w, bs, -, rfl, -, rfl⟩ | ⟨hx, hh, rfl⟩ | ⟨rfl, hr, hm, rfl⟩ |
    ⟨rfl, hr, hm, rfl⟩ | ⟨c, rfl, rfl⟩ | ⟨rfl, rfl⟩ | ⟨rfl, rfl⟩
  · exact effect_takeRequest hd
  · exact effect_illegalRequest _ w bs
  · exact .ignoredByHalt hh (by rcases hx with rfl | rfl <;> simp)
  · exact .txDone hr hm
  · exact .txFail hr hm
  · exact effect_rxChunk _ c
  · exact effect_tick _
  · exact .reset

end Sys2Proof.Machine
end

section
/-!
One lemma per field for the operations that combine primitive updates of Machine/Ops.lean: what each of them writes and what
it leaves (00_scope.md R7, 41_transport.md R131 to R140).
-/

namespace Sys2Proof.Machine

variable (s : State)

/-! `buildFrame` -/

@[simp] theorem buildFrame_state (f : List Byte) : (buildFrame f s).state = s.state := rfl
@[simp] theorem buildFrame_sent (f : List Byte) : (buildFrame f s).sent = s.sent := rfl
@[simp] theorem buildFrame_txlen (f : List Byte) : (buildFrame f s).txlen = BitVec.ofNat 4 f.length := rfl
@[simp] theorem buildFrame_rxq (f : List Byte) : (buildFrame f s).rxq = s.rxq := rfl
@[simp] theorem buildFrame_timer (f : List Byte) : (buildFrame f s).timer = s.timer := rfl
@[simp] theorem buildFrame_tlimit (f : List Byte) : (buildFrame f s).tlimit = s.tlimit := rfl
@[simp] theorem buildFrame_result (f : List Byte) : (buildFrame f s).result = .frameReady := rfl
@[simp] theorem buildFrame_line (f : List Byte) : (buildFrame f s).line = s.line := rfl
@[simp] theorem buildFrame_bus (f : List Byte) : (buildFrame f s).bus = s.bus := rfl

/-- The frame built is the one the next SEND transmits (R25, R101, R102). -/
theorem frame_buildFrame (f : List Byte) (h : f.length ≤ 9) : (buildFrame f s).frame = f := by
  have hlen : (BitVec.ofNat 4 f.length).toNat = f.length := by
    rw [BitVec.toNat_ofNat]; omega
  show (overwrite f s.txbuf).toList.take (BitVec.ofNat 4 f.length).toNat = f
  rw [hlen, take_overwrite f s.txbuf h]

/-! `decodeBytes` -/

@[simp] theorem decodeBytes_state (bs : List Byte) : (decodeBytes bs s).state = s.state := rfl
@[simp] theorem decodeBytes_sent (bs : List Byte) : (decodeBytes bs s).sent = s.sent := rfl
@[simp] theorem decodeBytes_txbuf (bs : List Byte) : (decodeBytes bs s).txbuf = s.txbuf := rfl
@[simp] theorem decodeBytes_txlen (bs : List Byte) : (decodeBytes bs s).txlen = s.txlen := rfl
@[simp] theorem decodeBytes_timer (bs : List Byte) : (decodeBytes bs s).timer = s.timer := rfl
@[simp] theorem decodeBytes_tlimit (bs : List Byte) : (decodeBytes bs s).tlimit = s.tlimit := rfl

/-! `endWait` -/

@[simp] theorem endWait_state (r : Result) : (endWait r s).state = .idle := rfl
@[simp] theorem endWait_sent (r : Result) : (endWait r s).sent = false := rfl
@[simp] theorem endWait_txbuf (r : Result) : (endWait r s).txbuf = s.txbuf := rfl
@[simp] theorem endWait_txlen (r : Result) : (endWait r s).txlen = s.txlen := rfl
@[simp] theorem endWait_rxq (r : Result) : (endWait r s).rxq = [] := rfl
@[simp] theorem endWait_timer (r : Result) : (endWait r s).timer = s.timer := rfl
@[simp] theorem endWait_tlimit (r : Result) : (endWait r s).tlimit = s.tlimit := rfl
@[simp] theorem endWait_result (r : Result) : (endWait r s).result = r := rfl
@[simp] theorem endWait_line (r : Result) : (endWait r s).line = s.line := rfl
@[simp] theorem endWait_bus (r : Result) : (endWait r s).bus = s.bus := rfl

/-! `startSend` keeps all but STATE, SENT, RXQ and FAULT_CODE of `S` -/

@[simp] theorem startSend_txbuf : (startSend s).txbuf = s.txbuf := by
  unfold startSend; split <;> simp
@[simp] theorem startSend_txlen : (startSend s).txlen = s.txlen := by
  unfold startSend; split <;> simp
@[simp] theorem startSend_timer : (startSend s).timer = s.timer := by
  unfold startSend; split <;> simp
@[simp] theorem startSend_tlimit : (startSend s).tlimit = s.tlimit := by
  unfold startSend; split <;> simp

/-! `txDone` and `txFail` -/

@[simp] theorem txDone_state : (txDone s).state = .idle := rfl
@[simp] theorem txDone_sent : (txDone s).sent = true := rfl
@[simp] theorem txDone_result : (txDone s).result = .ack := rfl
@[simp] theorem txDone_txbuf : (txDone s).txbuf = s.txbuf := by simp [txDone]
@[simp] theorem txDone_txlen : (txDone s).txlen = s.txlen := by simp [txDone]
@[simp] theorem txDone_frame : (txDone s).frame = s.frame := by simp [State.frame]
@[simp] theorem txDone_timer : (txDone s).timer = s.timer := by simp [txDone]
@[simp] theorem txDone_tlimit : (txDone s).tlimit = s.tlimit := by simp [txDone]
@[simp] theorem txDone_line : (txDone s).line = [] := by simp [txDone]
@[simp] theorem txDone_bus : (txDone s).bus = (lineDone s).bus := rfl

@[simp] theorem txFail_state : (txFail s).state = .idle := rfl
@[simp] theorem txFail_sent : (txFail s).sent = false := rfl
@[simp] theorem txFail_result : (txFail s).result = .ioError := rfl
@[simp] theorem txFail_txbuf : (txFail s).txbuf = s.txbuf := by simp [txFail]
@[simp] theorem txFail_txlen : (txFail s).txlen = s.txlen := by simp [txFail]
@[simp] theorem txFail_frame : (txFail s).frame = s.frame := by simp [State.frame]
@[simp] theorem txFail_rxq : (txFail s).rxq = s.rxq := by simp [txFail]
@[simp] theorem txFail_timer : (txFail s).timer = s.timer := by simp [txFail]
@[simp] theorem txFail_tlimit : (txFail s).tlimit = s.tlimit := by simp [txFail]
@[simp] theorem txFail_line : (txFail s).line = [] := by simp [txFail]
@[simp] theorem txFail_bus : (txFail s).bus = (lineCut s).bus := rfl

end Sys2Proof.Machine
end

section
/-!
The invariant of the block (10_state.md R23 to R28): what its parts say in each mode, that it holds after reset, and that
every effect of an input keeps it.
-/

namespace Sys2Proof.Machine

variable {s t : State}

/-! ### What leaves on the bus -/

/-- Every entry of the bus is the first bytes of a frame DECODE accepts: the last part of `LineInv`. -/
def BusInv (bus : List (List Byte)) : Prop :=
  ∀ b ∈ bus, ∃ f x, verdict f = .decoded x ∧ b <+: f

theorem LineInv.bus (h : LineInv s) : BusInv s.bus := h.2.2

theorem busInv_append_take {bus : List (List Byte)} {f : List Byte} {x : FrameFields} (h : BusInv bus)
    (hf : verdict f = .decoded x) (n : Nat) : BusInv (bus ++ [f.take n]) := by
  intro b hb
  rcases List.mem_append.1 hb with hb | hb
  · exact h b hb
  · obtain rfl := List.mem_singleton.1 hb
    exact ⟨f, x, hf, List.take_prefix n f⟩

theorem LineInv.line_eq_nil (h : LineInv s) (hs : s.state ≠ .tx) : s.line = [] := h.2.1 (.inl hs)

/-- A line with no transmission in progress meets `LineInv` outside TX, and in TX when halted. -/
theorem lineInv_of_line_nil (hs : t.state ≠ .tx ∨ t.halted = true) (hl : t.line = []) (hb : BusInv t.bus) :
    LineInv t := by
  refine ⟨?_, fun _ => hl, hb⟩
  rintro ⟨htx, hrun⟩
  rcases hs with hs | hs
  · exact absurd htx hs
  · simp [hrun] at hs

/-- What is on the line is the frame of `TXBUF`, which DECODE accepts (R63, R131). -/
theorem BlockInv.line_decodes (h : BlockInv s) (hl : s.line ≠ []) : ∃ x, verdict s.line = .decoded x := by
  obtain ⟨hbusy, hnil, -⟩ := h.line
  have htx : s.state = .tx := by_contra fun hs => hl (hnil (.inl hs))
  have hrun : s.halted = false := by
    by_contra hh
    exact hl (hnil (.inr (by simpa using hh)))
  have hmode := h.mode
  simp only [ModeInv, htx] at hmode
  rw [hbusy ⟨htx, hrun⟩]
  exact h.frame.2 hmode.2.2

theorem BlockInv.busInv_lineCut (h : BlockInv s) : BusInv (lineCut s).bus := by
  by_cases hl : s.line = []
  · rw [lineCut_idle s hl]
    exact h.line.bus
  · obtain ⟨x, hx⟩ := h.line_decodes hl
    obtain ⟨n, -, hcut⟩ := lineCut_busy s hl
    rw [hcut]
    exact busInv_append_take h.line.bus hx n

theorem BlockInv.busInv_lineDone (h : BlockInv s) : BusInv (lineDone s).bus := by
  by_cases hl : s.line = []
  · rw [lineDone_idle s hl]
    exact h.line.bus
  · obtain ⟨x, hx⟩ := h.line_decodes hl
    rw [lineDone_bus s hl, ← List.take_length (l := s.line)]
    exact busInv_append_take h.line.bus hx _

/-! ### The parts that speak of `S` -/

section sameButFault

variable (same : SameButFault s t)
include same

theorem SameButFault.frame_eq : t.frame = s.frame := by
  simp only [State.frame, same.txbuf, same.txlen]

theorem SameButFault.frameInv (h : FrameInv s) : FrameInv t := by
  rw [FrameInv, same.frame_eq, same.txlen]
  exact h

theorem SameButFault.modeInv (h : ModeInv s) : ModeInv t := by
  unfold ModeInv
  rw [same.state, same.sent, same.rxq, same.timer, same.tlimit, same.txlen]
  exact h

theorem SameButFault.timerInv (h : TimerInv s) : TimerInv t := by
  rw [TimerInv, same.timer, same.tlimit]
  exact h

theorem SameButFault.resultInv (h : ResultInv s) : ResultInv t := by
  unfold ResultInv
  rw [same.result, same.txlen]
  exact h

end sameButFault

theorem modeInv_idle (hs : s.state = .idle) : ModeInv s ↔ (s.sent = false → s.rxq = []) := by
  simp [ModeInv, hs]

theorem modeInv_tx (hs : s.state = .tx) :
    ModeInv s ↔ s.sent = false ∧ s.rxq = [] ∧ s.txlen ≠ 0#4 := by
  simp [ModeInv, hs]

theorem modeInv_awaitSingle (hs : s.state = .awaitSingle) :
    ModeInv s ↔ s.sent = true ∧ s.rxq = [] ∧ s.timer < s.tlimit := by
  simp [ModeInv, hs]

theorem modeInv_awaitAll (hs : s.state = .awaitAll) :
    ModeInv s ↔ s.sent = true ∧ s.timer < s.tlimit := by
  simp [ModeInv, hs]

/-- In a wait `TIMER` has not reached `TLIMIT`, so the next tick does not wrap it (R28). -/
theorem ModeInv.timer_lt (h : ModeInv s) (hs : s.state = .awaitSingle ∨ s.state = .awaitAll) :
    s.timer < s.tlimit := by
  rcases hs with hs | hs
  · exact ((modeInv_awaitSingle hs).1 h).2.2
  · exact ((modeInv_awaitAll hs).1 h).2

theorem timerInv_of_timer_zero (h : s.timer = 0#32) : TimerInv s := by
  rw [TimerInv, h]
  bv_omega

/-- The chunks a wait returns stand with their own verdicts (R141). -/
theorem resultInv_of_waitResult (h : WaitResult s.result) : ResultInv s := by
  unfold ResultInv
  cases hr : s.result <;> rw [hr] at h <;> cases h
  · rfl
  · exact ⟨rfl, by simp [reply]⟩
  · trivial

/-! ### Each operation keeps the invariant -/

theorem blockInv_setPending (xs : List Input) (h : BlockInv s) : BlockInv (setPending xs s) :=
  ⟨h.frame, h.mode, h.timer, h.result, h.line⟩

theorem blockInv_resetBlock (hb : BusInv (lineCut s).bus) : BlockInv (resetBlock s) where
  frame := ⟨.inl rfl, fun hl => absurd rfl hl⟩
  mode := fun _ => rfl
  timer := timerInv_of_timer_zero rfl
  result := trivial
  line := lineInv_of_line_nil (.inl (by simp [State.reset])) rfl hb

theorem blockInv_raiseFault {k : FaultCode} (running : s.faultCode = .noFault) (code : k ≠ .noFault)
    (h : BlockInv s) : BlockInv (raiseFault k s) := by
  have same := raiseFault_same s k
  refine ⟨same.frameInv h.frame, same.modeInv h.mode, same.timerInv h.timer, same.resultInv h.result, ?_⟩
  rw [raiseFault_eq s k running]
  refine lineInv_of_line_nil (.inr ?_) (lineCut_line s) h.busInv_lineCut
  rw [State.halted_eq_true]
  exact code

theorem blockInv_buildFrame {f : List Byte} {x : FrameFields} (hlen : f.length = 5 ∨ f.length = 9)
    (hf : verdict f = .decoded x) (idle : s.state = .idle) (h : BlockInv s) : BlockInv (buildFrame f s) := by
  have hframe : (buildFrame f s).frame = f := frame_buildFrame s f (by omega)
  have htxlen : (buildFrame f s).txlen = 5#4 ∨ (buildFrame f s).txlen = 9#4 := by
    rcases hlen with hlen | hlen <;> simp [hlen]
  exact {
    frame := ⟨.inr htxlen, fun _ => ⟨x, by rw [hframe, hf]⟩⟩
    mode := by simpa [modeInv_idle, idle] using h.mode
    timer := h.timer
    result := by
      show (buildFrame f s).txlen ≠ 0#4
      rcases htxlen with hl | hl <;> rw [hl] <;> decide
    line := lineInv_of_line_nil (.inl (by simp [idle])) (h.line.line_eq_nil (by simp [idle])) h.line.bus }

theorem blockInv_decodeBytes (bs : List Byte) (h : BlockInv s) : BlockInv (decodeBytes bs s) :=
  ⟨h.frame, h.mode, h.timer, trivial, h.line⟩

theorem blockInv_startSend (running : s.faultCode = .noFault) (loaded : s.txlen ≠ 0#4) (h : BlockInv s) :
    BlockInv (startSend s) := by
  rw [startSend_frame s loaded]
  exact {
    frame := h.frame
    mode := ⟨rfl, rfl, loaded⟩
    timer := h.timer
    result := h.result
    line := ⟨fun _ => rfl, by simp [State.halted, running], h.line.bus⟩ }

theorem blockInv_startWait {st : OpState} (hst : st = .awaitSingle ∧ s.rxq = [] ∨ st = .awaitAll) {t : Ticks}
    (idle : s.state = .idle) (sent : s.sent = true) (window : t ≠ 0#32) (h : BlockInv s) :
    BlockInv (enterState st (startWait t s)) := by
  have hpos : (0#32) < t := by bv_omega
  have hnil := h.line.line_eq_nil (by simp [idle])
  exact {
    frame := h.frame
    mode := by
      rcases hst with ⟨rfl, empty⟩ | rfl
      · exact ⟨sent, empty, hpos⟩
      · exact ⟨sent, hpos⟩
    timer := timerInv_of_timer_zero rfl
    result := h.result
    line := lineInv_of_line_nil (.inl (by rcases hst with ⟨rfl, -⟩ | rfl <;> simp)) hnil h.line.bus }

/-- However a wait ends, the block is idle with its capture window closed (R140). -/
theorem blockInv_endWait {r : Result} (hr : WaitResult r) (hframe : FrameInv s) (htimer : TimerInv s)
    (hline : s.line = []) (hbus : BusInv s.bus) : BlockInv (endWait r s) where
  frame := hframe
  mode := fun _ => rfl
  timer := htimer
  result := resultInv_of_waitResult hr
  line := lineInv_of_line_nil (.inl (by simp)) hline hbus

theorem blockInv_txDone (h : BlockInv s) : BlockInv (txDone s) where
  frame := by simpa [FrameInv] using h.frame
  mode := (modeInv_idle (txDone_state s)).2 (by simp)
  timer := by simpa [TimerInv] using h.timer
  result := trivial
  line := lineInv_of_line_nil (.inl (by simp)) (txDone_line s) h.busInv_lineDone

theorem blockInv_txFail (inTx : s.state = .tx) (h : BlockInv s) : BlockInv (txFail s) where
  frame := by simpa [FrameInv] using h.frame
  mode := by
    obtain ⟨-, empty, -⟩ := (modeInv_tx inTx).1 h.mode
    exact (modeInv_idle (txFail_state s)).2 fun _ => by rw [txFail_rxq, empty]
  timer := by simpa [TimerInv] using h.timer
  result := trivial
  line := lineInv_of_line_nil (.inl (by simp)) (txFail_line s) h.busInv_lineCut

theorem blockInv_enqueue (c : Chunk) (window : s.state = .idle ∧ s.sent = true ∨ s.state = .awaitAll)
    (h : BlockInv s) : BlockInv (enqueue c s) where
  frame := h.frame
  mode := by
    rcases window with ⟨idle, sent⟩ | all
    · simp [modeInv_idle, idle, sent]
    · simpa [modeInv_awaitAll, all] using h.mode
  timer := h.timer
  result := h.result
  line := h.line

/-- A tick of a wait takes `TIMER` to at most `TLIMIT` (R28). -/
theorem timerInv_countTick (hlt : s.timer < s.tlimit) : TimerInv (countTick s) := by
  rw [TimerInv, countTick_timer, countTick_tlimit]
  bv_omega

theorem blockInv_countTick (waiting : s.state = .awaitSingle ∨ s.state = .awaitAll)
    (notLast : s.timer + 1#32 ≠ s.tlimit) (h : BlockInv s) : BlockInv (countTick s) where
  frame := h.frame
  mode := by
    have hlt := h.mode.timer_lt waiting
    have hlt' : (countTick s).timer < (countTick s).tlimit := by
      rw [countTick_timer, countTick_tlimit]
      bv_omega
    rcases waiting with single | all
    · obtain ⟨sent, empty, -⟩ := (modeInv_awaitSingle single).1 h.mode
      exact (modeInv_awaitSingle (s := countTick s) single).2 ⟨sent, empty, hlt'⟩
    · obtain ⟨sent, -⟩ := (modeInv_awaitAll all).1 h.mode
      exact (modeInv_awaitAll (s := countTick s) all).2 ⟨sent, hlt'⟩
  timer := timerInv_countTick (h.mode.timer_lt waiting)
  result := h.result
  line := h.line

/-- Every effect of an input keeps the invariant. -/
theorem Effect.blockInv {x : Input} (e : Effect s x t) (h : BlockInv s) : BlockInv t := by
  have hquiet : s.state ≠ .tx → s.line = [] := h.line.line_eq_nil
  cases e with
  | ignoredByHalt => exact h
  | chunkDropped => exact h
  | tickIgnored => exact h
  | fault w bs k running code => exact blockInv_raiseFault running code h
  | encode w bs running idle op => exact blockInv_buildFrame (.inl rfl) (verdict_basicFrame _ _) idle h
  | encodeExt w bs running idle op => exact blockInv_buildFrame (.inr rfl) (verdict_extFrame _ _ _) idle h
  | decode w bs => exact blockInv_decodeBytes bs h
  | send w bs running idle op loaded => exact blockInv_startSend running loaded h
  | awaitSingleStarts w bs running idle op sent empty window =>
    exact blockInv_startWait (.inl ⟨rfl, empty⟩) idle sent window h
  | awaitAllStarts w bs running idle op sent window => exact blockInv_startWait (.inr rfl) idle sent window h
  | waitEndsAtOnce w bs r running idle op sent result =>
    exact blockInv_endWait result h.frame (timerInv_of_timer_zero rfl) (hquiet (by simp [idle])) h.line.bus
  | txDone => exact blockInv_txDone h
  | txFail running inTx => exact blockInv_txFail inTx h
  | chunkCaptured c running window => exact blockInv_enqueue c window h
  | chunkEndsWait c running waiting =>
    exact blockInv_endWait (.response c) h.frame h.timer (hquiet (by simp [waiting])) h.line.bus
  | tickEndsWait r running waiting last result =>
    exact blockInv_endWait result h.frame (timerInv_countTick (h.mode.timer_lt waiting))
      (hquiet (by rcases waiting with hs | hs <;> simp [hs])) h.line.bus
  | tickCounted running waiting notLast => exact blockInv_countTick waiting notLast h
  | reset => exact blockInv_resetBlock h.busInv_lineCut

/-- Resetting the state after reset changes nothing. -/
theorem resetBlock_reset : resetBlock State.reset = State.reset := rfl

/-- Settles O39: the reset values with an empty bus. -/
theorem resetStateMeetsInvariant : Obligations.ResetStateMeetsInvariant := by
  rw [Obligations.ResetStateMeetsInvariant, ← resetBlock_reset]
  refine blockInv_resetBlock ?_
  rw [lineCut_idle State.reset rfl]
  exact fun b hb => absurd hb List.not_mem_nil

/-- Settles O40: a step waits or has an effect of the pending input, and each effect keeps the invariant. -/
theorem stepKeepsInvariant : Obligations.StepKeepsInvariant := by
  intro s t hinv hst
  rcases step_next_cases hst with ⟨-, rfl⟩ | ⟨x, xs, hp, -⟩
  · exact hinv
  · exact (effect_of_step hp hst).blockInv (blockInv_setPending xs hinv)

end Sys2Proof.Machine
end

section
/-!
Which effects write `TXBUF`, `STATE`, `SENT`, `TIMER` and `TLIMIT` (10_state.md R23 to R28): each fact by cases on the
effects of an input, the fields each operation keeps being `simp` lemmas.
-/

namespace Sys2Proof.Machine

variable {s t : State} {x : Input}

theorem inputOp_request (w : ReqWord) (bs : List Byte) : inputOp (.request w bs) = some (w.toNat % 16) := rfl

/-- `TXBUF` and `TXLEN` are kept, or written by reset or by an encoder with the length of its frame (R25, R207). -/
theorem Effect.txbuf_cases (e : Effect s x t) :
    (t.txbuf = s.txbuf ∧ t.txlen = s.txlen) ∨ x = .reset ∨
      inputOp x = some 1 ∧ t.txlen = 5#4 ∨ inputOp x = some 2 ∧ t.txlen = 9#4 := by
  cases e with
  | reset => exact .inr (.inl rfl)
  | encode w bs running idle op =>
    exact .inr (.inr (.inl ⟨by rw [inputOp_request, op], by simp⟩))
  | encodeExt w bs running idle op =>
    exact .inr (.inr (.inr ⟨by rw [inputOp_request, op], by simp⟩))
  | _ => exact .inl ⟨by simp, by simp⟩

/-- Settles O41: the encoders write a length that is not 0. -/
theorem onlyEncodersWriteTxbuf : Obligations.OnlyEncodersWriteTxbuf := by
  intro s t x xs hp hst
  rcases (effect_of_step hp hst).txbuf_cases with ⟨hbuf, hlen⟩ | hreset | ⟨op, hlen⟩ | ⟨op, hlen⟩
  · rw [setPending_txbuf] at hbuf
    rw [setPending_txlen] at hlen
    exact ⟨by simp [hbuf, hlen], fun hs ht => absurd (hlen ▸ ht) hs⟩
  · exact ⟨fun _ => .inl hreset, fun _ _ => hreset⟩
  · exact ⟨fun _ => .inr (.inl ⟨op, hlen⟩), fun _ ht => by simp [hlen] at ht⟩
  · exact ⟨fun _ => .inr (.inr ⟨op, hlen⟩), fun _ ht => by simp [hlen] at ht⟩

/-- The changes of `STATE` by other inputs than reset (R23). -/
theorem Effect.mode_change (e : Effect s x t) (notReset : x ≠ .reset) (change : t.state ≠ s.state) :
    (s.state = .idle ∧
      (t.state = .tx ∧ inputOp x = some 4 ∨ t.state = .awaitSingle ∧ inputOp x = some 5 ∨
        t.state = .awaitAll ∧ inputOp x = some 6)) ∨
    (s.state = .tx ∧ t.state = .idle ∧ (x = .txDone ∨ x = .txFail)) ∨
    (s.state = .awaitSingle ∧ t.state = .idle ∧ ((inputChunk x).isSome ∨ x = .tick)) ∨
    (s.state = .awaitAll ∧ t.state = .idle ∧ x = .tick) := by
  cases e with
  | reset => exact absurd rfl notReset
  | send w bs running idle op loaded =>
    exact .inl ⟨idle, .inl ⟨by rw [startSend_frame s loaded], by rw [inputOp_request, op]⟩⟩
  | awaitSingleStarts w bs running idle op =>
    exact .inl ⟨idle, .inr (.inl ⟨rfl, by rw [inputOp_request, op]⟩)⟩
  | awaitAllStarts w bs running idle op =>
    exact .inl ⟨idle, .inr (.inr ⟨rfl, by rw [inputOp_request, op]⟩)⟩
  | waitEndsAtOnce w bs r running idle => exact absurd idle.symm change
  | txDone running inTx => exact .inr (.inl ⟨inTx, rfl, .inl rfl⟩)
  | txFail running inTx => exact .inr (.inl ⟨inTx, rfl, .inr rfl⟩)
  | chunkEndsWait c running waiting => exact .inr (.inr (.inl ⟨waiting, rfl, .inl rfl⟩))
  | tickEndsWait r running waiting =>
    rcases waiting with single | all
    · exact .inr (.inr (.inl ⟨single, rfl, .inr rfl⟩))
    · exact .inr (.inr (.inr ⟨all, rfl, rfl⟩))
  | _ => exact absurd (by simp) change

/-- Settles O43. -/
theorem modeChangesOnlyAsTabled : Obligations.ModeChangesOnlyAsTabled :=
  fun _ _ _ _ hp hst notReset change => (effect_of_step hp hst).mode_change notReset change

/-- The KIND of a wait's result is RESPONSE, RESPONSES or NO_RESPONSE (R27). -/
theorem WaitResult.kind {r : Result} (h : WaitResult r) :
    resultKind r = 7#4 ∨ resultKind r = 8#4 ∨ resultKind r = 9#4 := by
  cases h with
  | noResponse => exact .inr (.inr rfl)
  | response => exact .inl rfl
  | responses => exact .inr (.inl rfl)

/-- `SENT` is set only by a TX_DONE in TX (R24). -/
theorem Effect.sent_set (e : Effect s x t) (hs : s.sent = false) (ht : t.sent = true) :
    x = .txDone ∧ s.state = .tx ∧ t.result = .ack := by
  cases e with
  | txDone running inTx => exact ⟨rfl, inTx, rfl⟩
  | send w bs running idle op loaded =>
    rw [startSend_frame s loaded] at ht
    exact absurd ht (by simp)
  | reset => exact absurd ht (by simp [State.reset])
  | _ => exact absurd ht (by simp [hs])

/-- `SENT` is cleared only by reset, a SEND, or the completion of a wait (R24). In TX it is already 0. -/
theorem Effect.sent_cleared (e : Effect s x t) (h : ModeInv s) (hs : s.sent = true) (ht : t.sent = false) :
    x = .reset ∨ inputOp x = some 4 ∧ t.state = .tx ∨
      (s.state = .awaitSingle ∧ ((inputChunk x).isSome ∨ x = .tick) ∨ s.state = .awaitAll ∧ x = .tick ∨
          s.state = .idle ∧ (inputOp x = some 5 ∨ inputOp x = some 6)) ∧
        t.state = .idle ∧ t.rxq = [] ∧
        (resultKind t.result = 7#4 ∨ resultKind t.result = 8#4 ∨ resultKind t.result = 9#4) := by
  cases e with
  | reset => exact .inl rfl
  | send w bs running idle op loaded =>
    exact .inr (.inl ⟨by rw [inputOp_request, op], by rw [startSend_frame s loaded]⟩)
  | txFail running inTx =>
    obtain ⟨unsent, -⟩ := (modeInv_tx inTx).1 h
    simp [hs] at unsent
  | waitEndsAtOnce w bs r running idle op sent result =>
    exact .inr (.inr ⟨.inr (.inr ⟨idle, by simpa [inputOp_request] using op⟩), rfl, rfl, result.kind⟩)
  | chunkEndsWait c running waiting =>
    exact .inr (.inr ⟨.inl ⟨waiting, .inl rfl⟩, rfl, rfl, (WaitResult.response c).kind⟩)
  | tickEndsWait r running waiting last result =>
    refine .inr (.inr ⟨?_, rfl, rfl, result.kind⟩)
    rcases waiting with single | all
    · exact .inl ⟨single, .inr rfl⟩
    · exact .inr (.inl ⟨all, rfl⟩)
  | _ => exact absurd ht (by simp [hs])

/-- Settles O42. -/
theorem sentFollowsAckAndWait : Obligations.SentFollowsAckAndWait := by
  intro s t x xs hinv hp hst
  have e := effect_of_step hp hst
  exact ⟨e.sent_set, e.sent_cleared hinv.mode⟩

/-- `TIMER` and `TLIMIT` are kept, or written by reset, a tick of a wait or a wait request (R28). -/
theorem Effect.timer_cases (e : Effect s x t) :
    (t.timer = s.timer ∧ t.tlimit = s.tlimit) ∨
    (x = .reset ∧ t.timer = 0#32 ∧ t.tlimit = 0#32) ∨
    (x = .tick ∧ (s.state = .awaitSingle ∨ s.state = .awaitAll) ∧ t.tlimit = s.tlimit ∧
      t.timer = s.timer + 1#32) ∨
    ((inputOp x = some 5 ∨ inputOp x = some 6) ∧ s.state = .idle ∧ t.timer = 0#32 ∧
      ∃ w bs, x = .request w bs ∧ t.tlimit = reqT w) := by
  cases e with
  | reset => exact .inr (.inl ⟨rfl, rfl, rfl⟩)
  | tickCounted running waiting => exact .inr (.inr (.inl ⟨rfl, waiting, rfl, rfl⟩))
  | tickEndsWait r running waiting => exact .inr (.inr (.inl ⟨rfl, waiting, rfl, rfl⟩))
  | awaitSingleStarts w bs running idle op =>
    exact .inr (.inr (.inr ⟨.inl (by rw [inputOp_request, op]), idle, rfl, w, bs, rfl, rfl⟩))
  | awaitAllStarts w bs running idle op =>
    exact .inr (.inr (.inr ⟨.inr (by rw [inputOp_request, op]), idle, rfl, w, bs, rfl, rfl⟩))
  | waitEndsAtOnce w bs r running idle op =>
    exact .inr (.inr (.inr ⟨by simpa [inputOp_request] using op, idle, rfl, w, bs, rfl, rfl⟩))
  | _ => exact .inl ⟨by simp, by simp⟩

/-- Settles O44: below `TLIMIT` the 32-bit sum of a tick does not wrap. -/
theorem timerWrittenByWaitsOnly : Obligations.TimerWrittenByWaitsOnly := by
  intro s t x xs hinv hp hst change
  rcases (effect_of_step hp hst).timer_cases with ⟨htimer, htlimit⟩ | hreset | ⟨rfl, waiting, htlimit, htimer⟩ |
    ⟨op, idle, htimer, w, bs, rfl, htlimit⟩
  · rcases change with hne | hne
    · exact absurd htimer hne
    · exact absurd htlimit hne
  · exact .inl hreset
  · have hlt : s.timer < s.tlimit := hinv.mode.timer_lt waiting
    rw [setPending_timer] at htimer
    rw [setPending_tlimit] at htlimit
    exact .inr (.inl ⟨rfl, waiting, htlimit, by bv_omega, by rw [htlimit, htimer]; bv_omega⟩)
  · exact .inr (.inr ⟨op, idle, htimer, w, bs, rfl, by rw [htlimit, reqT_eq_ofNat]⟩)

end Sys2Proof.Machine
end

section
/-!
The host's view (10_state.md R27, R30, R33, 60_exceptions.md R218): the fields of `STATUS`, the readable bytes of `TXBUF` and
the readable payload of `RESULT`.
-/

namespace Sys2Proof.Machine

/-! ### `STATUS` -/

section status

variable (s : State)

theorem readStatus_state : (readStatus s).extractLsb' 0 2 = stateCode s.state := by
  rw [readStatus, statusWord, BitVec.extractLsb'_append_eq_of_add_le (by omega), BitVec.extractLsb'_eq_self]

theorem readStatus_sent : (readStatus s).getLsbD 2 = s.sent := by
  simp only [readStatus, statusWord, BitVec.getLsbD_append]
  simp

theorem readStatus_busy : (readStatus s).getLsbD 3 = s.busy := by
  simp only [readStatus, statusWord, BitVec.getLsbD_append]
  simp

theorem readStatus_faultCode : (readStatus s).extractLsb' 4 4 = faultCodeBits s.faultCode := by
  rw [readStatus, statusWord, BitVec.extractLsb'_append_eq_of_le (by omega),
    BitVec.extractLsb'_append_eq_of_le (by omega), BitVec.extractLsb'_append_eq_of_le (by omega),
    BitVec.extractLsb'_append_eq_of_add_le (by omega), BitVec.extractLsb'_eq_self]

theorem readStatus_kind : (readStatus s).extractLsb' 8 4 = resultKind s.result := by
  rw [readStatus, statusWord, BitVec.extractLsb'_append_eq_of_le (by omega),
    BitVec.extractLsb'_append_eq_of_le (by omega), BitVec.extractLsb'_append_eq_of_le (by omega),
    BitVec.extractLsb'_append_eq_of_le (by omega), BitVec.extractLsb'_append_eq_of_add_le (by omega),
    BitVec.extractLsb'_eq_self]

theorem readStatus_txlen : (readStatus s).extractLsb' 12 4 = s.txlen := by
  rw [readStatus, statusWord, BitVec.extractLsb'_append_eq_of_le (by omega),
    BitVec.extractLsb'_append_eq_of_le (by omega), BitVec.extractLsb'_append_eq_of_le (by omega),
    BitVec.extractLsb'_append_eq_of_le (by omega), BitVec.extractLsb'_append_eq_of_le (by omega),
    BitVec.extractLsb'_eq_self]

end status

/-- Settles O48: the field reads, and the codes by cases on the state. -/
theorem statusWordFields : Obligations.StatusWordFields := by
  intro s
  refine ⟨?_, readStatus_sent s, ?_, ?_, ?_, readStatus_txlen s, fun hinv => ?_⟩
  · rw [readStatus_state]
    cases s.state <;> rfl
  · rw [readStatus_busy, State.busy_eq_true]
  · rw [readStatus_faultCode]
    cases s.faultCode <;> rfl
  · rw [readStatus_kind]
    cases s.result with
    | verdict v => cases v <;> rfl
    | _ => rfl
  · rw [readStatus_txlen]
    simpa using hinv.frame.1

/-! ### `TXBUF` -/

/-- A byte of the frame is readable (R25, R218). -/
theorem readTxbuf_below {s : State} {i : Nat} (h : i < 9) (hi : i < s.txlen.toNat) :
    readTxbuf i s = .ok s.txbuf[i] := by
  have hget : s.frame[i]? = some s.txbuf[i] := by
    simp [State.frame, hi, h]
  simp [readTxbuf, hget]

/-- A byte at or beyond `TXLEN` is not (R6, R25). -/
theorem readTxbuf_beyond {s : State} {i : Nat} (hi : s.txlen.toNat ≤ i) : readTxbuf i s = .error .noValue := by
  have hget : s.frame[i]? = none := by
    simp [State.frame, Nat.not_lt.2 hi]
  simp [readTxbuf, hget]

theorem readTxbuf_of_txlen_zero {s : State} (h : s.txlen = 0#4) (i : Nat) : readTxbuf i s = .error .noValue :=
  readTxbuf_beyond (by simp [h])

/-- Settles O49. -/
theorem hostReadsTheFrameOnly : Obligations.HostReadsTheFrameOnly :=
  fun _ _ _ => ⟨readTxbuf_below, readTxbuf_beyond⟩

/-! ### Reset -/

/-- Settles O46. -/
theorem resetValues : Obligations.ResetValues :=
  ⟨rfl, rfl, rfl, rfl, rfl, rfl, rfl, rfl, rfl, readTxbuf_of_txlen_zero rfl⟩

/-- The step on a pending reset. -/
theorem step_reset {s : State} {xs : List Input} (hp : s.pending = .reset :: xs) :
    step s = .next (resetBlock (setPending xs s)) := by
  rw [step, hp]
  rfl

/-- `STATUS` speaks of `S` alone, so reset gives it the value it has after reset. -/
theorem readStatus_resetBlock (s : State) : readStatus (resetBlock s) = 0x0000#16 := by
  have hstatus : readStatus (resetBlock s) = readStatus State.reset := by
    simp [readStatus, statusWord, State.busy]
  rw [hstatus]
  rfl

/-- Settles O47: the step is `resetBlock`, which sets all of `S` whatever it held. -/
theorem resetFromAnyState : Obligations.ResetFromAnyState :=
  fun _ _ hp => ⟨_, step_reset hp, rfl, rfl, rfl, rfl, rfl, rfl, rfl, rfl, readStatus_resetBlock _,
    readTxbuf_of_txlen_zero rfl⟩

/-! ### `RESULT` -/

/-- Only the KINDs of a verdict have a verdict to read (R27). -/
theorem readVerdict_of_kind {r : Result} (h2 : resultKind r ≠ 2#4) (h3 : resultKind r ≠ 3#4)
    (h4 : resultKind r ≠ 4#4) : readVerdict r = .error .noValue := by
  cases r with
  | verdict v => cases v <;> contradiction
  | _ => rfl

theorem eq_response_of_kind {r : Result} (h : resultKind r = 7#4) : ∃ p, r = .response p := by
  cases r with
  | response p => exact ⟨p, rfl⟩
  | verdict v => cases v <;> simp [resultKind, verdictKind] at h
  | _ => simp [resultKind] at h

theorem eq_responses_of_kind {r : Result} (h : resultKind r = 8#4) : ∃ p ps, r = .responses p ps := by
  cases r with
  | responses p ps => exact ⟨p, ps, rfl⟩
  | verdict v => cases v <;> simp [resultKind, verdictKind] at h
  | _ => simp [resultKind] at h

/-- Only RESPONSE and RESPONSES have pairs to read (R27). -/
theorem readReplies_of_kind {r : Result} (h7 : resultKind r ≠ 7#4) (h8 : resultKind r ≠ 8#4) :
    readReplies r = .error .noValue := by
  cases r with
  | response p => exact absurd rfl h7
  | responses p ps => exact absurd rfl h8
  | _ => rfl

/-- Only DECODED has fields to read (R27, R104). -/
theorem readFields_of_kind {v : Verdict} (h : verdictKind v ≠ 2#4) : readFields v = .error .noValue := by
  cases v with
  | decoded f => exact absurd rfl h
  | malformedFrame => rfl
  | checksumMismatch => rfl

/-- FIELD is there exactly where LEN is 9 (R27, R103). -/
theorem readLen_readField (f : FrameFields) :
    readLen f = 5 ∧ f.field = none ∧ readField f = .error .noValue ∨
      readLen f = 9 ∧ ∃ x, f.field = some x ∧ readField f = .ok x := by
  cases h : f.field with
  | none => exact .inl (by simp [readLen, readField, h])
  | some x => exact .inr (by simp [readLen, readField, h])

/-- Settles O57. -/
theorem hostReadsThePayloadOfTheKindOnly : Obligations.HostReadsThePayloadOfTheKindOnly := by
  refine ⟨fun s => ⟨?_, readVerdict_of_kind, ?_, ?_, readReplies_of_kind⟩,
    fun v => ⟨readFields_of_kind, ?_⟩⟩
  · intro v hv
    simp [readResult, hv, resultKind, readVerdict]
  · intro h7
    obtain ⟨r, hr⟩ := eq_response_of_kind h7
    exact ⟨r, hr, by simp [readResult, hr, readReplies]⟩
  · intro h8
    obtain ⟨r, rs, hr⟩ := eq_responses_of_kind h8
    exact ⟨r, rs, hr, by simp [readResult, hr, readReplies]⟩
  · rintro f rfl
    exact ⟨rfl, rfl, readLen_readField f⟩

end Sys2Proof.Machine
end

section
/-!
The gather-all window (41_transport.md R137 to R140): what each input of a window does in one step, and by induction over the
inputs what the whole window returns.
-/

namespace Sys2Proof.Machine

variable {s : State} {xs : List Input}

section window

variable (waiting : s.state = .awaitAll) (running : s.faultCode = .noFault)
include waiting running

/-- A chunk inside the window is captured (R134). -/
theorem step_rxChunk_awaitAll {c : Chunk} (hp : s.pending = .rxChunk c :: xs) :
    step s = .next (enqueue c (setPending xs s)) := by
  rw [step_rxChunk s c xs hp, rxChunk_awaitAll (setPending xs s) c running waiting]

/-- A tick before the last is counted (R137). -/
theorem step_tick_awaitAll_of_ne (hp : s.pending = .tick :: xs) (notLast : s.timer + 1#32 ≠ s.tlimit) :
    step s = .next (countTick (setPending xs s)) := by
  rw [step_tick s xs hp, tick_awaitAll (setPending xs s) running waiting]
  exact congrArg Host.Outcome.next (if_neg notLast)

/-- The last tick ends the window (R137, R139). -/
theorem step_tick_awaitAll_of_eq (hp : s.pending = .tick :: xs) (last : s.timer + 1#32 = s.tlimit) :
    step s = .next (endGather (countTick (setPending xs s))) := by
  rw [step_tick s xs hp, tick_awaitAll (setPending xs s) running waiting]
  exact congrArg Host.Outcome.next (if_pos last)

end window

/-- The block after a gather-all window that ran out with these chunks captured (R138 to R140). -/
def afterWindow (cs : List Chunk) (xs : List Input) (s : State) : State :=
  endWait (gatherResult cs) { s with pending := xs, timer := s.tlimit }

theorem endGather_countTick_eq_afterWindow (last : s.timer + 1#32 = s.tlimit) :
    endGather (countTick (setPending xs s)) = afterWindow s.rxq xs s := by
  simp only [endGather_eq, afterWindow, endWait_eq, countTick, setPending, last]

/-- A chunk among the inputs is the next one captured. -/
theorem filterMap_inputChunk_rxChunk (c : Chunk) (ys : List Input) :
    (Input.rxChunk c :: ys).filterMap inputChunk = c :: ys.filterMap inputChunk := rfl

/-- A window of ticks and chunks in any order, up to its last tick: a chunk lengthens the queue, a tick advances `TIMER`, and
either leaves a shorter window of the same wait. -/
theorem run_gatherWindow (ys : List Input) (waiting : s.state = .awaitAll) (running : s.faultCode = .noFault)
    (hys : ∀ y ∈ ys, y = .tick ∨ ∃ c, y = .rxChunk c)
    (hticks : s.timer.toNat + ys.count .tick + 1 = s.tlimit.toNat) (hp : s.pending = ys ++ .tick :: xs) :
    Sys2Proof.core.run (ys.length + 1) s = .next (afterWindow (s.rxq ++ ys.filterMap inputChunk) xs s) := by
  induction ys generalizing s with
  | nil =>
    have last : s.timer + 1#32 = s.tlimit := by
      rw [List.count_nil] at hticks
      bv_omega
    rw [List.length_nil, run_succ 0 s _ (step_tick_awaitAll_of_eq waiting running hp last), run_zero,
      endGather_countTick_eq_afterWindow last, List.filterMap_nil, List.append_nil]
  | cons y ys ih =>
    obtain ⟨hy, htail⟩ := List.forall_mem_cons.1 hys
    rcases hy with rfl | ⟨c, rfl⟩
    · rw [List.count_cons_self] at hticks
      have notLast : s.timer + 1#32 ≠ s.tlimit := by bv_omega
      have hnext : (s.timer + 1#32).toNat + ys.count .tick + 1 = s.tlimit.toNat := by bv_omega
      rw [List.length_cons, run_succ _ s _ (step_tick_awaitAll_of_ne waiting running hp notLast)]
      exact ih waiting running htail hnext rfl
    · rw [List.count_cons_of_ne (by simp)] at hticks
      rw [List.length_cons, run_succ _ s _ (step_rxChunk_awaitAll waiting running hp), filterMap_inputChunk_rxChunk,
        List.append_cons]
      exact ih waiting running htail hticks rfl

/-- Settles O28: `run_gatherWindow`, with the result of R139 by whether a chunk was captured. -/
theorem gatherWindowReturnsEveryChunkInOrder : Obligations.GatherWindowReturnsEveryChunkInOrder := by
  intro s ys xs waiting running _ hys hticks hp
  rw [run_gatherWindow ys waiting running hys hticks hp]
  cases s.rxq ++ ys.filterMap inputChunk with
  | nil => rfl
  | cons c cs => rfl

end Sys2Proof.Machine
end

section
/-!
The way of a frame to the bus (20_memory.md R63, 41_transport.md R131, R132): an encoder's request, SEND and TX_DONE, followed
for any frame that fits `TXBUF`; each encoder is a case of it.
-/

namespace Sys2Proof.Machine

variable {s : State} {xs : List Input}

/-! ### The fields and updates the steps pass through -/

@[simp] theorem txDone_rxq (s : State) : (txDone s).rxq = s.rxq := by simp [txDone]
@[simp] theorem txDone_pending (s : State) : (txDone s).pending = s.pending := by simp [txDone]

theorem setPending_setPending (ys xs : List Input) (s : State) :
    setPending xs (setPending ys s) = setPending xs s := rfl

/-! ### The words of the three requests (R83, R84) -/

theorem decodeInstr_encodeWord (a c : Byte) :
    decodeInstr (.request (reqWord 0#32 0#8 c a 1#4) []) = .ok (.encode a c) := by
  simp [decodeInstr, decodeRequest]

theorem decodeInstr_encodeExtWord (a c n : Byte) :
    decodeInstr (.request (reqWord 0#32 n c a 2#4) []) = .ok (.encodeExt a c n) := by
  simp [decodeInstr, decodeRequest]

theorem decodeInstr_sendWord : decodeInstr (.request 4#64 []) = .ok .send := rfl

/-! ### The three steps -/

/-- A request of an idle block runs its operation (R210). -/
theorem step_request_idle {w : ReqWord} {bs : List Byte} {i : Instr} (idle : s.state = .idle)
    (running : s.faultCode = .noFault) (hp : s.pending = .request w bs :: xs)
    (hd : decodeInstr (.request w bs) = .ok i) : step s = .next (requestOp i (setPending xs s)) := by
  rw [step_request s w bs xs i hp hd, takeRequest_idle (setPending xs s) _ running idle]

/-- The step on a pending TX_DONE in TX (R132). -/
theorem step_txDone (inTx : s.state = .tx) (running : s.faultCode = .noFault) (hp : s.pending = .txDone :: xs) :
    step s = .next (txDone (setPending xs s)) := by
  simp [step, hp, takeInput, lineReport, State.halted, running, inTx]

/-- The block in TX with the frame `f` on the line: what a SEND of `f` leaves (R131). -/
def inTransmission (f : List Byte) (s : State) : State :=
  { buildFrame f s with rxq := [], sent := false, state := .tx, line := f }

/-- SEND after an encoder hands the frame built to the line (R63, R131). -/
theorem startSend_buildFrame {f : List Byte} (hpos : f ≠ []) (hlen : f.length ≤ 9) :
    startSend (setPending xs (buildFrame f s)) = setPending xs (inTransmission f s) := by
  have loaded : (setPending xs (buildFrame f s)).txlen ≠ 0#4 := by
    have hlen0 : 0 < f.length := List.length_pos_iff.2 hpos
    rw [setPending_txlen, buildFrame_txlen]
    bv_omega
  rw [startSend_frame _ loaded, setPending_frame, frame_buildFrame s f hlen]
  rfl

section threeSteps

variable {f : List Byte} (running : s.faultCode = .noFault)
include running

/-- The encoder's step (R101, R102). -/
theorem step_buildFrame {w : ReqWord} {i : Instr} (idle : s.state = .idle)
    (hd : decodeInstr (.request w []) = .ok i) (hop : requestOp i = buildFrame f)
    (hp : s.pending = .request w [] :: xs) : step s = .next (setPending xs (buildFrame f s)) := by
  rw [step_request_idle idle running hp hd, hop]
  rfl

/-- SEND's step on the block the encoder leaves (R131). -/
theorem step_send_buildFrame (idle : s.state = .idle) (hpos : f ≠ []) (hlen : f.length ≤ 9) :
    step (setPending (.request 4#64 [] :: xs) (buildFrame f s)) = .next (setPending xs (inTransmission f s)) := by
  rw [step_request_idle (s := setPending _ (buildFrame f s)) idle running (setPending_pending _ _)
    decodeInstr_sendWord, setPending_setPending, requestOp, startSend_buildFrame hpos hlen]

/-- TX_DONE's step on the block SEND leaves (R132). -/
theorem step_txDone_inTransmission :
    step (setPending (.txDone :: xs) (inTransmission f s)) = .next (txDone (setPending xs (inTransmission f s))) :=
  step_txDone (s := setPending (.txDone :: xs) (inTransmission f s)) rfl running rfl

/-- Any frame an encoder's request builds reaches the bus whole (R63, R131, R132). -/
theorem run_encode_send_txDone {w : ReqWord} {i : Instr} (idle : s.state = .idle)
    (hd : decodeInstr (.request w []) = .ok i) (hop : requestOp i = buildFrame f) (hpos : f ≠ [])
    (hlen : f.length ≤ 9) (hp : s.pending = [.request w [], .request 4#64 [], .txDone] ++ xs) :
    ∃ t, Sys2Proof.core.run 3 s = .next t ∧ t.bus = s.bus ++ [f] ∧
      t.state = .idle ∧ t.sent = true ∧ t.result = .ack ∧ t.rxq = [] ∧ t.pending = xs := by
  refine ⟨txDone (setPending xs (inTransmission f s)), ?_, ?_, rfl, rfl, rfl, txDone_rxq _, txDone_pending _⟩
  · exact calc Sys2Proof.core.run 3 s
      _ = Sys2Proof.core.run 2 (setPending (.request 4#64 [] :: .txDone :: xs) (buildFrame f s)) :=
        run_succ 2 s _ (step_buildFrame running idle hd hop hp)
      _ = Sys2Proof.core.run 1 (setPending (.txDone :: xs) (inTransmission f s)) :=
        run_succ 1 _ _ (step_send_buildFrame running idle hpos hlen)
      _ = .next (txDone (setPending xs (inTransmission f s))) :=
        run_succ 0 _ _ (step_txDone_inTransmission running)
  · exact lineDone_bus (setPending xs (inTransmission f s)) hpos

end threeSteps

/-! ### The frames with their checksums written out (R72) -/

theorem basicFrame_eq_sum (a c : Byte) :
    basicFrame a c = [0x02#8, a, c, 0x03#8, 0x02#8 + a + c + 0x03#8] := by
  simp [basicFrame_bytes, BitVec.add_assoc]

theorem extFrame_eq_sum (a c n : Byte) :
    extFrame a c n = [0x02#8, a, c, n, 0#8, 0#8, 0#8, 0x03#8, 0x02#8 + a + c + n + 0x03#8] := by
  simp [extFrame_bytes, BitVec.add_assoc]

/-- Settles O32: both encoders build a frame that fits `TXBUF`. -/
theorem encodedFramesReachTheBus : Obligations.EncodedFramesReachTheBus := by
  intro a c n s xs idle running
  rw [← basicFrame_eq_sum, ← extFrame_eq_sum]
  exact ⟨run_encode_send_txDone running idle (decodeInstr_encodeWord a c) rfl (List.cons_ne_nil _ _) (by simp),
    run_encode_send_txDone running idle (decodeInstr_encodeExtWord a c n) rfl (List.cons_ne_nil _ _) (by simp)⟩

end Sys2Proof.Machine
end

section
/-!
Decoder and encoder against each other (30_encoding.md R70 to R87): the decoder's equations by operation code and by frame
form, its inversion on frames, and the reading of the opcode table's numbers.
-/

namespace Sys2Proof.Machine

/-! ### Request words (R83, R84) -/

theorem reqA_eq_ofNat (w : ReqWord) : reqA w = BitVec.ofNat 8 (w.toNat / 2 ^ 8) := by
  apply BitVec.eq_of_toNat_eq
  simp [reqA, BitVec.extractLsb'_toNat, Nat.shiftRight_eq_div_pow]

theorem reqC_eq_ofNat (w : ReqWord) : reqC w = BitVec.ofNat 8 (w.toNat / 2 ^ 16) := by
  apply BitVec.eq_of_toNat_eq
  simp [reqC, BitVec.extractLsb'_toNat, Nat.shiftRight_eq_div_pow]

theorem reqN_eq_ofNat (w : ReqWord) : reqN w = BitVec.ofNat 8 (w.toNat / 2 ^ 24) := by
  apply BitVec.eq_of_toNat_eq
  simp [reqN, BitVec.extractLsb'_toNat, Nat.shiftRight_eq_div_pow]

section byOperationCode

variable {w : ReqWord} {bs : List Byte}

theorem decodeInstr_op_encode (h : (reqOp w).toNat = 1) :
    decodeInstr (.request w bs) = .ok (.encode (reqA w) (reqC w)) := by
  simp [decodeInstr, decodeRequest, h]

theorem decodeInstr_op_encodeExt (h : (reqOp w).toNat = 2) :
    decodeInstr (.request w bs) = .ok (.encodeExt (reqA w) (reqC w) (reqN w)) := by
  simp [decodeInstr, decodeRequest, h]

theorem decodeInstr_op_decode (h : (reqOp w).toNat = 3) :
    decodeInstr (.request w bs) = .ok (.decode bs) := by
  simp [decodeInstr, decodeRequest, h]

theorem decodeInstr_op_send (h : (reqOp w).toNat = 4) :
    decodeInstr (.request w bs) = .ok .send := by
  simp [decodeInstr, decodeRequest, h]

theorem decodeInstr_op_awaitSingle (h : (reqOp w).toNat = 5) :
    decodeInstr (.request w bs) = .ok (.awaitSingle (reqT w)) := by
  simp [decodeInstr, decodeRequest, h]

theorem decodeInstr_op_awaitAll (h : (reqOp w).toNat = 6) :
    decodeInstr (.request w bs) = .ok (.awaitAll (reqT w)) := by
  simp [decodeInstr, decodeRequest, h]

/-- The unused operation codes (R84, R85). -/
theorem decodeInstr_op_illegal (h : (reqOp w).toNat = 0 ∨ 7 ≤ (reqOp w).toNat) :
    decodeInstr (.request w bs) = .error (.illegalOp (reqOp w)) := by
  simp only [decodeInstr]
  unfold decodeRequest
  split
  case h_7 => rfl
  all_goals omega

end byOperationCode

/-- Settles O4: each clause is the decoder's equation for that operation code, its fields read as numbers. -/
theorem requestFieldsAndCodes : Obligations.RequestFieldsAndCodes := by
  intro w bs op a c n t
  have hop : (reqOp w).toNat = op := reqOp_toNat w
  have ha : reqA w = a := reqA_eq_ofNat w
  have hc : reqC w = c := reqC_eq_ofNat w
  have hn : reqN w = n := reqN_eq_ofNat w
  have ht : reqT w = t := reqT_eq_ofNat w
  rw [← hop, ← ha, ← hc, ← hn, ← ht, BitVec.ofNat_toNat, BitVec.setWidth_eq]
  exact ⟨decodeInstr_op_encode, decodeInstr_op_encodeExt, decodeInstr_op_decode, decodeInstr_op_send,
    decodeInstr_op_awaitSingle, decodeInstr_op_awaitAll, decodeInstr_op_illegal⟩

/-! ### Frames (R70, R71) -/

@[simp] theorem decodeInstr_basicChunk (a c k : Byte) :
    decodeInstr (.frame (basicChunk a c k).bytes) = decodeBasic a c k := by
  simp [decodeInstr, basicChunk, Chunk.bytes, decodeFrame]

@[simp] theorem decodeInstr_extChunk (a c n k : Byte) :
    decodeInstr (.frame (extChunk a c n k).bytes) = decodeExtended a c n k := by
  simp [decodeInstr, extChunk, Chunk.bytes, decodeFrame]

/-- The frames the decoder accepts: the basic form and the extended form, with a command byte of that form. -/
theorem decodeInstr_frame_cases {bs : List Byte} {i : Instr} (h : decodeInstr (.frame bs) = .ok i) :
    (∃ a c k, bs = (basicChunk a c k).bytes ∧ decodeBasic a c k = .ok i) ∨
    (∃ a c n k, bs = (extChunk a c n k).bytes ∧ decodeExtended a c n k = .ok i) := by
  simp only [decodeInstr] at h
  unfold decodeFrame at h
  split at h
  · next st a c e k =>
    split_ifs at h with hst he
    simp only [ne_eq, not_not] at hst he
    exact .inl ⟨a, c, k, by rw [hst, he]; rfl, h⟩
  · next st a c n r4 r5 r6 e k =>
    split_ifs at h with hst he hr
    simp only [ne_eq, not_not, not_or] at hst he hr
    obtain ⟨h4, h5, h6⟩ := hr
    exact .inr ⟨a, c, n, k, by rw [hst, he, h4, h5, h6]; rfl, h⟩
  · cases h

/-- A command byte of the basic form stands in its command's encoding (R75, R76, R77). -/
theorem encodeInstr_of_decodeBasic {a c k : Byte} {i : Instr} (h : decodeBasic a c k = .ok i) :
    encodeInstr i = .frame (basicChunk a c k).bytes := by
  unfold decodeBasic at h
  split_ifs at h with h30 h31 h32 <;> cases h <;> subst c <;> rfl

/-- A command byte of the extended form stands in its command's encoding (R78, R79). -/
theorem encodeInstr_of_decodeExtended {a c n k : Byte} {i : Instr} (h : decodeExtended a c n k = .ok i) :
    encodeInstr i = .frame (extChunk a c n k).bytes := by
  unfold decodeExtended at h
  split_ifs at h with h80 h81 <;> cases h <;> subst c <;> rfl

/-- Settles O3: a frame that decodes has one of the two forms, and the command byte names the command. -/
theorem decodedFrameIsItsEncoding : Obligations.DecodedFrameIsItsEncoding := by
  intro bs i h
  obtain ⟨a, c, k, rfl, hd⟩ | ⟨a, c, n, k, rfl, hd⟩ := decodeInstr_frame_cases h
  · exact encodeInstr_of_decodeBasic hd
  · exact encodeInstr_of_decodeExtended hd

/-! ### Every instruction's own code -/

/-- Settles O2: a request by its operation code and the fields of the word built for it, a wire command by its frame form
and its command byte. -/
theorem decodeOfEncodeIsIdentity : Obligations.DecodeOfEncodeIsIdentity := by
  intro i
  cases i with
  | encode a c => exact decodeInstr_encodeWord a c
  | encodeExt a c n => exact decodeInstr_encodeExtWord a c n
  | decode bs => exact decodeInstr_op_decode (by simp)
  | send => exact decodeInstr_op_send (by simp)
  | awaitSingle t => rw [encodeInstr, decodeInstr_op_awaitSingle (by simp), reqT_reqWord]
  | awaitAll t => rw [encodeInstr, decodeInstr_op_awaitAll (by simp), reqT_reqWord]
  | getDoorStatus a k => exact decodeInstr_basicChunk a 0x30#8 k
  | unlock a k => exact decodeInstr_basicChunk a 0x31#8 k
  | getBusStatus a k => exact decodeInstr_basicChunk a 0x32#8 k
  | broadcastRecruit a n k => exact decodeInstr_extChunk a 0x80#8 n k
  | assignNewAddress a n k => exact decodeInstr_extChunk a 0x81#8 n k

/-- Settles O1: the decoder evaluated on the six codes. -/
theorem specWordsDecode : Obligations.SpecWordsDecode := by
  unfold Obligations.SpecWordsDecode
  decide

/-! ### The numbers of the opcode table (R87) -/

/-- The number whose base-256 digits are those of `n` followed by the bytes, the first byte most significant. -/
def appendBytes (n : Nat) (bs : List Byte) : Nat := bs.foldl (fun n b => 256 * n + b.toNat) n

theorem appendBytes_cons (n : Nat) (b : Byte) (bs : List Byte) :
    appendBytes n (b :: bs) = appendBytes (256 * n + b.toNat) bs := rfl

/-- The digits above the appended bytes are those of the number they were appended to. -/
theorem appendBytes_div (n : Nat) (bs : List Byte) : appendBytes n bs / 256 ^ bs.length = n := by
  induction bs generalizing n with
  | nil => simp [appendBytes]
  | cons b bs ih =>
    rw [appendBytes_cons, List.length_cons, Nat.pow_succ, ← Nat.div_div_eq_div_mul, ih]
    omega

/-- The appended bytes are read back, whatever stands above them. -/
theorem tableBytes_appendBytes (n : Nat) (bs : List Byte) : tableBytes bs.length (appendBytes n bs) = bs := by
  induction bs generalizing n with
  | nil => rfl
  | cons b bs ih =>
    have first : BitVec.ofNat 8 (256 * n + b.toNat) = b := by
      apply BitVec.eq_of_toNat_eq
      rw [BitVec.toNat_ofNat]
      omega
    rw [appendBytes_cons, List.length_cons, tableBytes, appendBytes_div, first, ih]

theorem tableCode_request (w : ReqWord) : tableCode 64 w.toNat = .request w [] := by
  simp [tableCode]

theorem tableCode_frame {bs : List Byte} (h : bs.length ≠ 8) :
    tableCode (8 * bs.length) (appendBytes 0 bs) = .frame bs := by
  have notRequest : 8 * bs.length ≠ 64 := by omega
  rw [tableCode, if_neg notRequest, Nat.mul_div_cancel_left _ (by decide), tableBytes_appendBytes]

/-- No command frame is as long as a request word. -/
theorem length_ne_of_encodeInstr {i : Instr} {bs : List Byte} (h : encodeInstr i = .frame bs) : bs.length ≠ 8 := by
  have decodes : decodeInstr (.frame bs) = .ok i := h ▸ decodeOfEncodeIsIdentity i
  obtain ⟨a, c, k, rfl, -⟩ | ⟨a, c, n, k, rfl, -⟩ := decodeInstr_frame_cases decodes
  · simp [basicChunk, Chunk.bytes]
  · simp [extChunk, Chunk.bytes]

/-- A code presented as the next input is decoded and run, with the pending inputs as they were before it. -/
theorem step_presentCode {code : Code} {x : Input} {i : Instr} (hx : codeInput code = some x)
    (hd : decodeInstr code = .ok i) (s : State) : step (presentCode code s) = exec i s := by
  cases code with
  | request w bs =>
    cases hx
    simp only [presentCode, codeInput, step, setPending_pending, takeInput, takeRequestWord, hd]
    rfl
  | frame bs =>
    cases bs with
    | nil => cases hx
    | cons b bs =>
      simp only [presentCode, codeInput, step, setPending_pending, takeInput, takeChunk, Chunk.bytes, hd]
      rfl

theorem codeInput_encodeInstr (i : Instr) : ∃ x, codeInput (encodeInstr i) = some x := by
  cases i <;> exact ⟨_, rfl⟩

/-- A table number that stands for an instruction's encoding is read as that instruction, and the step runs it. -/
theorem tableNumber_runs {nbits w : Nat} {i : Instr} (h : tableCode nbits w = encodeInstr i) :
    decodeTableWord nbits w = some i ∧ ∀ s : State, step (s.withFetchWord nbits w) = exec i s := by
  obtain ⟨x, hx⟩ := codeInput_encodeInstr i
  have decodes := decodeOfEncodeIsIdentity i
  constructor
  · rw [decodeTableWord, h, decodes]
    rfl
  · intro s
    rw [State.withFetchWord, h, step_presentCode hx decodes]

/-- Settles O58: the table's numbers are read as the codes they number, and an instruction's own code decodes to it. -/
theorem tableNumbersAreReadBack : Obligations.TableNumbersAreReadBack := by
  refine ⟨tableCode_request, fun _ => tableCode_frame, ?_, ?_⟩
  · intro i w h
    exact tableNumber_runs ((tableCode_request w).trans h.symm)
  · intro i bs h
    exact tableNumber_runs ((tableCode_frame (length_ne_of_encodeInstr h)).trans h.symm)

/-! ### Wire commands in the capture window (R75 to R79, R134) -/

/-- A chunk received in the capture window is queued (R134). -/
theorem rxChunk_captured {s : State} (running : s.faultCode = .noFault)
    (window : s.state = .idle ∧ s.sent = true ∨ s.state = .awaitAll) (c : Chunk) : rxChunk c s = enqueue c s := by
  obtain ⟨idle, sent⟩ | waiting := window
  · rw [rxChunk_idle s c running idle, if_pos sent]
  · exact rxChunk_awaitAll s c running waiting

/-- Settles O29: each command's meaning is that of its chunk, which the window queues. -/
theorem wireCommandsAreCaptured : Obligations.WireCommandsAreCaptured := by
  intro a n k s running window
  have captured (c : Chunk) : (.next (rxChunk c s) : Host.Outcome State Fault Refusal) = .next (enqueue c s) := by
    rw [rxChunk_captured running window]
  exact ⟨captured (basicChunk a 0x30#8 k), captured (basicChunk a 0x31#8 k), captured (basicChunk a 0x32#8 k),
    captured (extChunk a 0x80#8 n k), captured (extChunk a 0x81#8 n k)⟩

end Sys2Proof.Machine
end

section
/-!
The codec (40_codec.md R100 to R110). Any byte sequence of frame length is a `framed` one: two marker places, the bytes of
its fields between them, and a checksum place. The verdict is said once over that form, and the statements about DECODE
follow from it by replacing bytes in it.
-/

namespace Sys2Proof.Machine

variable {s : State}

/-! ### The codec's requests in each mode of the block (R206, R210) -/

/-- A legal request takes OVERLAP while the block is busy, with the rest of `S` kept (R206, R209). -/
theorem takeRequest_overlap (op : State → State) (running : s.faultCode = .noFault) (busy : s.state ≠ .idle) :
    ∃ t, (.next (takeRequest op s) : Host.Outcome State Fault Refusal) = .next t ∧
      t.faultCode = .overlap ∧ SameButFault s t :=
  ⟨raiseFault .overlap s, by rw [takeRequest_busy s op running busy], raiseFault_code s .overlap running,
    raiseFault_same s .overlap⟩

section idle

variable (idle : s.state = .idle) (running : s.faultCode = .noFault)
include idle running

theorem exec_encode_idle (a c : Byte) : exec (.encode a c) s = .next (buildFrame (basicFrame a c) s) :=
  congrArg _ (takeRequest_idle s _ running idle)

theorem exec_encodeExt_idle (a c n : Byte) : exec (.encodeExt a c n) s = .next (buildFrame (extFrame a c n) s) :=
  congrArg _ (takeRequest_idle s _ running idle)

theorem exec_decode_idle (bs : List Byte) : exec (.decode bs) s = .next { s with result := .verdict (verdict bs) } :=
  congrArg _ (takeRequest_idle s _ running idle)

end idle

/-! ### The frames of the encoders in `TXBUF` (R101, R102) -/

theorem overwrite_basicFrame (a c : Byte) (buf : Vector Byte 9) :
    overwrite (basicFrame a c) buf =
      #v[0x02#8, a, c, 0x03#8, 0x02#8 + a + c + 0x03#8, buf[5], buf[6], buf[7], buf[8]] := by
  rw [basicFrame_eq_sum]
  rfl

theorem overwrite_extFrame (a c n : Byte) (buf : Vector Byte 9) :
    overwrite (extFrame a c n) buf =
      #v[0x02#8, a, c, n, 0x00#8, 0x00#8, 0x00#8, 0x03#8, 0x02#8 + a + c + n + 0x03#8] := by
  rw [extFrame_eq_sum]
  rfl

/-- Settles O10: the idle block writes the basic frame over the first five bytes, the busy one takes OVERLAP. -/
theorem encodeBuildsBasicFrame : Obligations.EncodeBuildsBasicFrame := by
  intro a c s running
  refine ⟨fun idle => ?_, takeRequest_overlap _ running⟩
  rw [exec_encode_idle idle running, ← overwrite_basicFrame]
  rfl

/-- Settles O11: the idle block writes the extended frame over all of `TXBUF`, the busy one takes OVERLAP. -/
theorem encodeExtBuildsExtendedFrame : Obligations.EncodeExtBuildsExtendedFrame := by
  intro a c n s running
  refine ⟨fun idle => ?_, takeRequest_overlap _ running⟩
  rw [exec_encodeExt_idle idle running, ← overwrite_extFrame _ _ _ s.txbuf]
  rfl

/-- DECODE of the frame just built writes its verdict (R63, R103). -/
theorem exec_decode_buildFrame (idle : s.state = .idle) (running : s.faultCode = .noFault) {f : List Byte}
    (hlen : f.length ≤ 9) : exec (.decode (buildFrame f s).frame) (buildFrame f s) =
      .next { buildFrame f s with result := .verdict (verdict f) } := by
  rw [exec_decode_idle (s := buildFrame f s) idle running, frame_buildFrame s f hlen]

/-- Settles O14: DECODE is given the frame built, whose verdict is its operands. -/
theorem encodedFramesDecodeToTheirFields : Obligations.EncodedFramesDecodeToTheirFields := by
  intro a c n s idle running
  rw [← verdict_basicFrame, ← verdict_extFrame]
  exact ⟨⟨_, exec_encode_idle idle running a c, exec_decode_buildFrame idle running (by simp), rfl⟩,
    ⟨_, exec_encodeExt_idle idle running a c n, exec_decode_buildFrame idle running (by simp), rfl⟩⟩

/-! ### Byte sequences of frame length (R70, R71, R73) -/

/-- The bytes that hold the fields, in their places between the markers (R70, R71, R74). -/
def fieldBytes (f : FrameFields) : List Byte :=
  [f.addr, f.cmd] ++ match f.field with
    | none => []
    | some x => [x.byte0, x.byte1, x.byte2, x.byte3]

/-- The bytes in the places of START, the fields, END and SUM, whatever stands there. -/
def framed (st e k : Byte) (f : FrameFields) : List Byte := st :: (fieldBytes f ++ [e, k])

/-- The bytes the checksum is over: START through END (R72). -/
def summed (st e : Byte) (f : FrameFields) : List Byte := st :: (fieldBytes f ++ [e])

theorem fieldBytes_length (f : FrameFields) : (fieldBytes f).length + 3 = readLen f := by
  obtain ⟨a, c, _ | x⟩ := f <;> rfl

theorem readLen_eq (f : FrameFields) : readLen f = 5 ∨ readLen f = 9 := by
  unfold readLen
  split
  · exact .inr rfl
  · exact .inl rfl

theorem field_eq_none_of_readLen {f : FrameFields} (h : readLen f = 5) : f.field = none := by
  obtain ⟨a, c, _ | x⟩ := f
  · rfl
  · cases h

/-- Two bytes or six are the bytes of some fields. -/
theorem exists_fieldBytes_eq {m : List Byte} (h : m.length + 3 = 5 ∨ m.length + 3 = 9) : ∃ f, fieldBytes f = m := by
  match m, h with
  | [a, c], _ => exact ⟨⟨a, c, none⟩, rfl⟩
  | [a, c, b0, b1, b2, b3], _ => exact ⟨⟨a, c, some ⟨b0, b1, b2, b3⟩⟩, rfl⟩

/-- Bytes as many as those of some fields are the bytes of fields of their own. -/
theorem exists_fieldBytes_eq_of_length {m : List Byte} {f : FrameFields} (h : m.length = (fieldBytes f).length) :
    ∃ g, fieldBytes g = m := by
  apply exists_fieldBytes_eq
  rw [h, fieldBytes_length]
  exact readLen_eq f

theorem exists_framed_eq {bs : List Byte} (h : bs.length = 5 ∨ bs.length = 9) : ∃ st e k f, bs = framed st e k f := by
  match bs, h with
  | [st, a, c, e, k], _ => exact ⟨st, e, k, ⟨a, c, none⟩, rfl⟩
  | [st, a, c, b0, b1, b2, b3, e, k], _ => exact ⟨st, e, k, ⟨a, c, some ⟨b0, b1, b2, b3⟩⟩, rfl⟩

section framed

variable (st e k : Byte) (f : FrameFields)

@[simp] theorem framed_length : (framed st e k f).length = readLen f := by
  rw [← fieldBytes_length]
  simp [framed]

@[simp] theorem framed_getElem?_start : (framed st e k f)[0]? = some st := rfl

@[simp] theorem framed_getElem?_addr : (framed st e k f)[1]? = some f.addr := rfl

@[simp] theorem framed_getElem?_cmd : (framed st e k f)[2]? = some f.cmd := rfl

@[simp] theorem framed_getElem?_end : (framed st e k f)[readLen f - 2]? = some e := by
  rw [← fieldBytes_length]
  simp [framed]

@[simp] theorem framed_getLast? : (framed st e k f).getLast? = some k := by
  simp [framed, List.getLast?_cons]

@[simp] theorem framed_dropLast : (framed st e k f).dropLast = summed st e f := by
  simp [framed, summed, List.dropLast_cons_of_ne_nil]

theorem framed_field_of_readLen (h : readLen f = 9) : ∃ x, f.field = some x ∧
    (framed st e k f)[3]? = some x.byte0 ∧ (framed st e k f)[4]? = some x.byte1 ∧
    (framed st e k f)[5]? = some x.byte2 ∧ (framed st e k f)[6]? = some x.byte3 := by
  obtain ⟨a, c, _ | x⟩ := f
  · cases h
  · exact ⟨x, rfl, rfl, rfl, rfl, rfl⟩

end framed

/-! ### The verdict (R103) -/

theorem verdict_of_length {bs : List Byte} (h : bs.length ≠ 5 ∧ bs.length ≠ 9) : verdict bs = .malformedFrame := by
  unfold verdict
  split
  · simp at h
  · simp at h
  · rfl

theorem verdict_framed (st e k : Byte) (f : FrameFields) :
    verdict (framed st e k f) = checkFrame st e k (sum8 (summed st e f)) f := by
  obtain ⟨a, c, _ | x⟩ := f <;> rfl

section checks

variable {st e k : Byte} {f : FrameFields}

theorem verdict_framed_of_marker (h : st ≠ startMarker ∨ e ≠ endMarker) :
    verdict (framed st e k f) = .malformedFrame := by
  rw [verdict_framed, checkFrame, if_pos h]

theorem verdict_framed_of_sum_ne (h : k ≠ sum8 (summed startMarker endMarker f)) :
    verdict (framed startMarker endMarker k f) = .checksumMismatch := by
  simp [verdict_framed, checkFrame, h]

theorem verdict_framed_of_sum_eq (h : k = sum8 (summed startMarker endMarker f)) :
    verdict (framed startMarker endMarker k f) = .decoded f := by
  simp [verdict_framed, checkFrame, h]

end checks

/-- The byte sequences DECODE accepts (R103). -/
theorem eq_framed_of_verdict {bs : List Byte} {f : FrameFields} (h : verdict bs = .decoded f) :
    ∃ k, k = sum8 (summed startMarker endMarker f) ∧ bs = framed startMarker endMarker k f := by
  by_cases hlen : bs.length = 5 ∨ bs.length = 9
  · obtain ⟨st, e, k, g, rfl⟩ := exists_framed_eq hlen
    rw [verdict_framed, checkFrame] at h
    split at h
    · cases h
    split at h
    · cases h
    next markers sum =>
      obtain ⟨rfl, rfl⟩ : st = startMarker ∧ e = endMarker := by simpa using markers
      cases h
      exact ⟨k, not_not.1 sum, rfl⟩
  · rw [verdict_of_length (not_or.1 hlen)] at h
    cases h

/-- Settles O12: the checks of `verdict_framed`, with the bytes at each place of a framed sequence. -/
theorem decodeReportsFirstFailedCheck : Obligations.DecodeReportsFirstFailedCheck := by
  intro bs s running
  refine ⟨fun idle => ⟨verdict bs, exec_decode_idle idle running bs, verdict_of_length, fun hlen => ?_⟩,
    takeRequest_overlap _ running⟩
  obtain ⟨st, e, k, f, rfl⟩ := exists_framed_eq hlen
  simp only [framed_length, framed_getElem?_start, framed_getElem?_end, framed_getLast?, framed_dropLast, ne_eq,
    Option.some_inj]
  refine ⟨verdict_framed_of_marker, ?_⟩
  rintro rfl rfl
  exact ⟨verdict_framed_of_sum_ne, fun sum => ⟨f, verdict_framed_of_sum_eq sum, rfl, rfl, rfl,
    field_eq_none_of_readLen, framed_field_of_readLen _ _ k f⟩⟩

/-- Verdicts of rejection are told apart by their KIND: they hold nothing else (R104). -/
theorem verdict_eq_of_kind {v w : Verdict} (rejected : verdictKind v ≠ 2#4) (same : verdictKind v = verdictKind w) :
    v = w := by
  cases v with
  | decoded f => exact absurd rfl rejected
  | malformedFrame => cases w with
    | malformedFrame => rfl
    | decoded g => cases same
    | checksumMismatch => cases same
  | checksumMismatch => cases w with
    | checksumMismatch => rfl
    | decoded g => cases same
    | malformedFrame => cases same

/-- Settles O13: both decodes write their verdict into RESULT, and the two verdicts are equal. -/
theorem rejectedBytesLeaveNoTrace : Obligations.RejectedBytesLeaveNoTrace := by
  intro bs cs s t u idle running ht hu rejected same
  rw [exec_decode_idle idle running] at ht hu
  cases ht
  cases hu
  have equal : verdict bs = verdict cs := verdict_eq_of_kind rejected same
  exact ⟨by rw [equal], rfl⟩

/-! ### Changed bytes (R110) -/

/-- A change of one byte changes the checksum. -/
theorem sum8_set_ne {b : Byte} {bs : List Byte} {i : Nat} (hi : i < bs.length) (hb : bs[i]? ≠ some b) :
    sum8 (bs.set i b) ≠ sum8 bs := by
  induction bs generalizing i with
  | nil => simp at hi
  | cons x bs ih =>
    cases i with
    | zero =>
      have : b ≠ x := by simpa [eq_comm] using hb
      simpa using this
    | succ i => simpa using ih (by simpa using hi) (by simpa using hb)

theorem sum8_summed (st e : Byte) (f : FrameFields) : sum8 (summed st e f) = st + (sum8 (fieldBytes f) + e) := by
  simp [summed]

/-- A change among the bytes of the fields is noticed by the checksum alone. -/
theorem verdict_set_field {f : FrameFields} {j : Nat} {b : Byte} (hj : j < (fieldBytes f).length)
    (hb : (fieldBytes f)[j]? ≠ some b) :
    verdict (startMarker :: ((fieldBytes f).set j b ++ [endMarker, sum8 (summed startMarker endMarker f)])) =
      .checksumMismatch := by
  obtain ⟨g, hg⟩ := exists_fieldBytes_eq_of_length (List.length_set (as := fieldBytes f) (i := j) (a := b))
  have hsum : sum8 (fieldBytes g) ≠ sum8 (fieldBytes f) := hg ▸ sum8_set_ne hj hb
  rw [← hg]
  apply verdict_framed_of_sum_ne
  simpa [sum8_summed] using hsum.symm

/-- Settles O15: the changed byte stands in the place of START, of a field, of END or of SUM. -/
theorem oneByteErrorIsCaught : Obligations.OneByteErrorIsCaught := by
  intro bs f i b accepted hi hb
  obtain ⟨k, hk, rfl⟩ := eq_framed_of_verdict accepted
  have hlen := fieldBytes_length f
  rw [framed_length] at hi ⊢
  cases i with
  | zero =>
    have start : b ≠ startMarker := by simpa [eq_comm] using hb
    exact (verdict_framed_of_marker (.inl start)).trans (if_pos (.inl rfl)).symm
  | succ j =>
    simp only [framed, List.set_cons_succ, List.getElem?_cons_succ] at hb ⊢
    obtain hj | rfl | rfl : j < (fieldBytes f).length ∨ j = (fieldBytes f).length ∨ j = (fieldBytes f).length + 1 := by
      omega
    · rw [List.set_append_left _ _ hj, if_neg (by omega), hk]
      exact verdict_set_field hj (by rwa [List.getElem?_append_left hj] at hb)
    · have stop : b ≠ endMarker := by simpa [eq_comm] using hb
      rw [List.set_append_right _ _ (by omega), if_pos (by omega), Nat.sub_self]
      exact verdict_framed_of_marker (.inr stop)
    · have sum : b ≠ k := by simpa [eq_comm] using hb
      rw [List.set_append_right _ _ (by omega), if_neg (by omega), Nat.add_sub_cancel_left]
      exact verdict_framed_of_sum_ne (hk ▸ sum)

/-- Settles O16: the new bytes are the bytes of fields of their own, and SUM is still right for them. -/
theorem compensatingErrorsPass : Obligations.CompensatingErrorsPass := by
  intro m m' k f accepted hlen hsum
  obtain ⟨k', hk, hbs⟩ := eq_framed_of_verdict accepted
  have hbytes : m ++ [endMarker, k] = fieldBytes f ++ [endMarker, k'] := by simpa [framed] using hbs
  obtain ⟨rfl, hsums⟩ := List.append_inj' hbytes rfl
  cases hsums
  obtain ⟨g, rfl⟩ := exists_fieldBytes_eq_of_length hlen
  have same : sum8 (fieldBytes g) = sum8 (fieldBytes f) := BitVec.eq_of_toNat_eq (by simpa [sum8] using hsum)
  refine ⟨g, verdict_framed_of_sum_eq ?_, ?_⟩
  · rw [hk, sum8_summed, sum8_summed, same]
  · obtain ⟨a, c, _ | x⟩ := g <;> rfl

/-! ### The views of a status reply (R74, R105, R106) -/

theorem statusReply_eq_sum (a c b0 b1 b2 b3 : Byte) :
    statusReply a c b0 b1 b2 b3 =
      [0x02#8, a, c, b0, b1, b2, b3, 0x03#8, 0x02#8 + a + c + b0 + b1 + b2 + b3 + 0x03#8] := by
  simp [statusReply, withSum, BitVec.add_assoc]

theorem verdict_statusReply (a c b0 b1 b2 b3 : Byte) :
    verdict (statusReply a c b0 b1 b2 b3) = .decoded ⟨a, c, some ⟨b0, b1, b2, b3⟩⟩ :=
  verdict_framed_of_sum_eq (f := ⟨a, c, some ⟨b0, b1, b2, b3⟩⟩) rfl

/-- The device status by the two flag bytes, busy first (R106). -/
theorem statusOfFlags_flag (door busy : Byte) :
    statusOfFlags (flag door) (flag busy) =
      if busy = 1#8 then .busy
      else if busy = 0#8 ∧ door = 1#8 then .opened
      else if busy = 0#8 ∧ door = 0#8 then .closed
      else .unrecognised := by
  unfold flag
  by_cases h1 : busy = 1#8
  · simp [h1, statusOfFlags]
  by_cases h0 : busy = 0#8
  · split
    · next d1 => simp [h0, d1, statusOfFlags]
    split
    · next d0 => simp [h0, d0, statusOfFlags]
    · next d1 d0 => simp [h0, d1, d0, statusOfFlags]
  · simp [h1, h0, statusOfFlags]

/-- Settles O17: the views read the fields of the verdict, which are the reply's bytes. -/
theorem statusReplyViews : Obligations.StatusReplyViews := by
  constructor
  · intro a c b0 b1 b2 b3 v
    have hv : v = .decoded ⟨a, c, some ⟨b0, b1, b2, b3⟩⟩ := by
      rw [← verdict_statusReply, statusReply_eq_sum]
    rw [hv, ← statusOfFlags_flag]
    exact ⟨rfl, rfl, rfl⟩
  · intro a c v
    have hv : v = .decoded ⟨a, c, none⟩ := by
      rw [← verdict_basicFrame, basicFrame_eq_sum]
    rw [hv]
    exact ⟨rfl, rfl, rfl⟩

/-! ### The hex view (R107) -/

theorem digit_eq_hexDigit : ∀ n < 16,
    ['0', '1', '2', '3', '4', '5', '6', '7', '8', '9', 'a', 'b', 'c', 'd', 'e', 'f'][n]? = some (hexDigit n) := by
  decide

theorem hexDigit_inj : ∀ m < 16, ∀ n < 16, hexDigit m = hexDigit n → m = n := by
  decide

theorem byte_div_lt (b : Byte) : b.toNat / 16 < 16 := by
  have := b.isLt
  omega

theorem byte_mod_lt (b : Byte) : b.toNat % 16 < 16 := Nat.mod_lt _ (by decide)

@[simp] theorem toList_hex (bs : List Byte) : (hex bs).toList = hexChars bs := String.toList_ofList

@[simp] theorem hexChars_cons (b : Byte) (bs : List Byte) :
    hexChars (b :: bs) = hexDigit (b.toNat / 16) :: hexDigit (b.toNat % 16) :: hexChars bs := rfl

/-- The two digits of a byte give it back. -/
theorem eq_of_hexDigits {b c : Byte} (high : hexDigit (b.toNat / 16) = hexDigit (c.toNat / 16))
    (low : hexDigit (b.toNat % 16) = hexDigit (c.toNat % 16)) : b = c := by
  have hdiv := hexDigit_inj _ (byte_div_lt b) _ (byte_div_lt c) high
  have hmod := hexDigit_inj _ (byte_mod_lt b) _ (byte_mod_lt c) low
  apply BitVec.eq_of_toNat_eq
  omega

theorem hexChars_injective {bs cs : List Byte} (h : hexChars bs = hexChars cs) : bs = cs := by
  induction bs generalizing cs with
  | nil => cases cs with
    | nil => rfl
    | cons c cs => cases h
  | cons b bs ih => cases cs with
    | nil => cases h
    | cons c cs =>
      obtain ⟨high, low, rest⟩ : _ ∧ _ ∧ hexChars bs = hexChars cs := by simpa using h
      rw [eq_of_hexDigits high low, ih rest]

/-- Settles O18: the listed digits are `hexDigit`'s values, and the characters of the view give the bytes back. -/
theorem hexViewIsFaithful : Obligations.HexViewIsFaithful := by
  refine ⟨rfl, fun b bs => ?_, fun bs cs h => ?_⟩
  · exact ⟨_, _, digit_eq_hexDigit _ (byte_div_lt b), digit_eq_hexDigit _ (byte_mod_lt b), by simp⟩
  · apply hexChars_injective
    rw [← toList_hex, ← toList_hex, h]

end Sys2Proof.Machine
end

section
/-!
The transport (41_transport.md R130 to R140): the instruction a step runs and where a step stops, then each request, report,
chunk and tick as an update of the state before it, and from these the two ends of a single wait.
-/

namespace Sys2Proof.Machine

variable {s : State} {xs : List Input}

/-! ### The step runs the instruction of its input (R130) -/

theorem step_eq_takeInput {x : Input} (hp : s.pending = x :: xs) : step s = takeInput x (setPending xs s) := by
  simp only [step, hp]

/-- Settles O5: only a request and a chunk carry a code, and both are decoded and run by `exec`. -/
theorem stepRunsTheDecodedInstruction : Obligations.StepRunsTheDecodedInstruction := by
  intro s x xs code i hp hx hd
  cases x with
  | request w bs =>
    cases hx
    simp only [step_eq_takeInput hp, takeInput, takeRequestWord, hd]
    rfl
  | rxChunk c =>
    cases hx
    simp only [step_eq_takeInput hp, takeInput, takeChunk, hd]
    rfl
  | txDone => cases hx
  | txFail => cases hx
  | tick => cases hx
  | reset => cases hx

/-- Settles O6: every instruction's code is carried by an input and decodes to that instruction. -/
theorem presentedInstructionRuns : Obligations.PresentedInstructionRuns := by
  intro i s
  obtain ⟨x, hx⟩ := codeInput_encodeInstr i
  exact step_presentCode hx (decodeOfEncodeIsIdentity i) s

/-! ### Where a step stops (R130, R132, R133) -/

/-- The two reports of the line transmitter (R130). -/
def IsLineReport (x : Input) : Prop := x = .txDone ∨ x = .txFail

/-- A report in TX is taken (R132, R133). -/
theorem lineReport_tx (op : State → State) (running : s.faultCode = .noFault) (inTx : s.state = .tx) :
    lineReport op s = .next (op s) := by
  simp [lineReport, (State.halted_eq_false s).2 running, inTx]

/-- A halted block ignores a report (R144, R209). -/
theorem lineReport_halted (op : State → State) (halted : s.faultCode ≠ .noFault) : lineReport op s = .next s :=
  if_pos ((State.halted_eq_true s).2 halted)

/-- A report that finds no transmission does not occur (R132, R133). -/
theorem lineReport_refused (op : State → State) (running : s.faultCode = .noFault) (outside : s.state ≠ .tx) :
    lineReport op s = .refused .lineReportNotEnabled := by
  simp [lineReport, (State.halted_eq_false s).2 running, outside]

/-- In TX, or halted, a report has a next state (R132, R133, R209). -/
theorem lineReport_next (op : State → State) (h : s.faultCode ≠ .noFault ∨ s.state = .tx) :
    ∃ t, lineReport op s = .next t := by
  by_cases running : s.faultCode = .noFault
  · exact ⟨op s, lineReport_tx op running (h.resolve_left (not_not.2 running))⟩
  · exact ⟨s, lineReport_halted op running⟩

/-- A report finds no transmission to report on. -/
def ReportNotEnabled (s : State) (x : Input) : Prop :=
  s.faultCode = .noFault ∧ s.state ≠ .tx ∧ IsLineReport x

theorem takeInput_refused {x : Input} (h : ReportNotEnabled s x) :
    takeInput x s = .refused .lineReportNotEnabled := by
  obtain ⟨running, outside, rfl | rfl⟩ := h
  · exact lineReport_refused txDone running outside
  · exact lineReport_refused txFail running outside

/-- Every other input has a next state (R214). -/
theorem takeInput_next {x : Input} (h : ¬ ReportNotEnabled s x) : ∃ t, takeInput x s = .next t := by
  have enabled (report : IsLineReport x) : s.faultCode ≠ .noFault ∨ s.state = .tx := by
    by_contra hn
    obtain ⟨running, outside⟩ := not_or.1 hn
    exact h ⟨not_not.1 running, outside, report⟩
  cases x with
  | request w bs =>
    rcases takeRequestWord_cases w bs s with ⟨i, -, he⟩ | ⟨r, -, he⟩
    · exact ⟨_, he⟩
    · exact ⟨_, he⟩
  | txDone => exact lineReport_next txDone (enabled (.inl rfl))
  | txFail => exact lineReport_next txFail (enabled (.inr rfl))
  | rxChunk c => exact ⟨_, takeChunk_eq c s⟩
  | tick => exact ⟨_, rfl⟩
  | reset => exact ⟨_, rfl⟩

/-- Outside TX, not halted, a pending report has no next state (R132, R133). -/
theorem step_ne_next_of_reportNotEnabled {x : Input} (hp : s.pending = x :: xs) (h : ReportNotEnabled s x)
    (t : State) : step s ≠ .next t := by
  rw [step_eq_takeInput hp, takeInput_refused (s := setPending xs s) h]
  simp

/-- A step is refused for a report that does not occur, or has a next state. -/
theorem step_refused_or_next (s : State) :
    (∃ x xs, s.pending = x :: xs ∧ ReportNotEnabled s x ∧ step s = .refused .lineReportNotEnabled) ∨
    ((∀ x xs, s.pending = x :: xs → ¬ ReportNotEnabled s x) ∧ ∃ t, step s = .next t) := by
  cases hp : s.pending with
  | nil => exact .inr ⟨by simp, s, by simp only [step, hp, waitForInput]⟩
  | cons x xs =>
    by_cases h : ReportNotEnabled s x
    · exact .inl ⟨x, xs, rfl, h, by rw [step_eq_takeInput hp, takeInput_refused (s := setPending xs s) h]⟩
    · refine .inr ⟨?_, by rw [step_eq_takeInput hp]; exact takeInput_next (s := setPending xs s) h⟩
      rintro y ys ⟨⟩
      exact h

/-- Settles O8: `step_refused_or_next`. -/
theorem stepStopsOnlyOnLineReports : Obligations.StepStopsOnlyOnLineReports := by
  intro s
  rcases step_refused_or_next s with ⟨x, xs, hp, h, hstep⟩ | ⟨hnone, t, hstep⟩
  · obtain ⟨running, outside, report⟩ := h
    have oldest : s.pending = .txDone :: xs ∨ s.pending = .txFail :: xs := by
      rcases report with rfl | rfl
      · exact .inl hp
      · exact .inr hp
    exact ⟨by simp [hstep], fun _ => ⟨running, outside, xs, oldest⟩, fun _ => ⟨_, hstep⟩⟩
  · refine ⟨by simp [hstep], by simp [hstep], ?_⟩
    rintro ⟨running, outside, xs, hp | hp⟩
    · exact absurd ⟨running, outside, .inl rfl⟩ (hnone _ xs hp)
    · exact absurd ⟨running, outside, .inr rfl⟩ (hnone _ xs hp)

/-! ### SEND and the reports of the line (R131 to R133) -/

/-- An idle block whose operation is a fault takes that fault and keeps the rest of `S` (R209, R210). -/
theorem takeRequest_fault {op : State → State} {k : FaultCode} (running : s.faultCode = .noFault)
    (idle : s.state = .idle) (hop : op s = raiseFault k s) :
    ∃ t, (.next (takeRequest op s) : Host.Outcome State Fault Refusal) = .next t ∧
      t.faultCode = k ∧ SameButFault s t :=
  ⟨raiseFault k s, by rw [takeRequest_idle s op running idle, hop], raiseFault_code s k running, raiseFault_same s k⟩

/-- Settles O19: the idle block by whether it holds a frame, the busy one takes OVERLAP. -/
theorem sendStartsTransmission : Obligations.SendStartsTransmission := by
  intro s running
  refine ⟨fun idle loaded => ?_, fun idle empty => ?_, takeRequest_overlap startSend running⟩
  · rw [exec, execSend, takeRequest_idle s _ running idle, startSend_frame s loaded, State.frame]
  · exact takeRequest_fault running idle (startSend_empty s empty)

/-- In TX the frame of `TXBUF` is on the line, and it has bytes (R131). -/
theorem BlockInv.line_of_tx (h : BlockInv s) (running : s.faultCode = .noFault) (inTx : s.state = .tx) :
    s.line = s.frame ∧ s.line ≠ [] := by
  have hline : s.line = s.frame := h.line.1 ⟨inTx, (State.halted_eq_false s).2 running⟩
  obtain ⟨-, -, loaded⟩ := (modeInv_tx inTx).1 h.mode
  obtain ⟨f, hf⟩ := h.frame.2 loaded
  refine ⟨hline, fun hnil => ?_⟩
  rw [← hline, hnil] at hf
  cases hf

/-- TX_DONE with bytes on the line (R132). -/
theorem txDone_eq (h : s.line ≠ []) :
    txDone s = { s with state := .idle, sent := true, result := .ack, line := [], bus := s.bus ++ [s.line] } := by
  simp [txDone, complete, lineDone, lineEnd, h]

/-- TX_FAIL with bytes on the line: some first bytes of them have left (R133). -/
theorem txFail_eq (h : s.line ≠ []) :
    ∃ n, n ≤ s.line.length ∧ txFail s =
      { s with
        state := .idle, sent := false, result := .ioError
        line := [], bus := s.bus ++ [s.line.take n], freeCount := s.freeCount + 1 } := by
  obtain ⟨n, hn, hcut⟩ := lineCut_busy s h
  exact ⟨n, hn, by rw [txFail, hcut]; rfl⟩

/-- The step on a pending TX_FAIL in TX (R133). -/
theorem step_txFail (inTx : s.state = .tx) (running : s.faultCode = .noFault) (hp : s.pending = .txFail :: xs) :
    step s = .next (txFail (setPending xs s)) := by
  rw [step_eq_takeInput hp]
  exact lineReport_tx (s := setPending xs s) txFail running inTx

/-- Settles O20: the whole frame is on the line, and TX_DONE moves it to the bus. -/
theorem txDoneAcknowledges : Obligations.TxDoneAcknowledges := by
  intro s xs hp
  refine ⟨fun hinv running inTx => ?_, fun running outside =>
    step_ne_next_of_reportNotEnabled hp ⟨running, outside, .inl rfl⟩⟩
  obtain ⟨hline, hne⟩ := hinv.line_of_tx running inTx
  rw [step_txDone inTx running hp, txDone_eq (s := setPending xs s) hne, setPending_line, hline]
  rfl

/-- First bytes of the frame are first bytes of `TXBUF`, at most `TXLEN` of them. -/
theorem take_frame {n : Nat} (h : n ≤ s.frame.length) :
    n ≤ s.txlen.toNat ∧ s.frame.take n = s.txbuf.toList.take n := by
  have hn : n ≤ s.txlen.toNat := h.trans (List.length_take_le _ _)
  exact ⟨hn, by rw [State.frame, List.take_take, Nat.min_eq_left hn]⟩

/-- Settles O21: the whole frame is on the line, and TX_FAIL moves some first bytes of it to the bus. -/
theorem txFailReportsIoError : Obligations.TxFailReportsIoError := by
  intro s xs hp
  refine ⟨fun hinv running inTx => ?_, fun running outside =>
    step_ne_next_of_reportNotEnabled hp ⟨running, outside, .inr rfl⟩⟩
  obtain ⟨hline, hne⟩ := hinv.line_of_tx running inTx
  obtain ⟨n, hn, hfail⟩ := txFail_eq (s := setPending xs s) hne
  rw [setPending_line, hline] at hn hfail
  obtain ⟨hlen, hbytes⟩ := take_frame hn
  refine ⟨n, hlen, ?_⟩
  rw [step_txFail inTx running hp, hfail, hbytes]
  rfl

/-! ### Chunks (R134, R136) -/

/-- A chunk that finds no capture window is dropped (R134). -/
theorem rxChunk_discarded (c : Chunk)
    (h : s.faultCode ≠ .noFault ∨ s.state = .tx ∨ s.state = .idle ∧ s.sent = false) : rxChunk c s = s := by
  rcases h with halted | inTx | ⟨idle, unsent⟩
  · exact rxChunk_halted s c halted
  · exact rxChunk_tx s c inTx
  · by_cases running : s.faultCode = .noFault
    · simp [rxChunk_idle s c running idle, unsent]
    · exact rxChunk_halted s c running

/-- A chunk in a single wait ends it (R136). -/
theorem rxChunk_ends_wait (c : Chunk) (running : s.faultCode = .noFault) (waiting : s.state = .awaitSingle) :
    rxChunk c s =
      { s with result := .response ⟨c, verdict c.bytes⟩, state := .idle, sent := false, rxq := [] } :=
  rxChunk_awaitSingle s c running waiting

/-- Settles O22: the chunk's effect by the mode of the block. -/
theorem chunksAreCapturedInTheWindowOnly : Obligations.ChunksAreCapturedInTheWindowOnly := by
  intro s c xs hp
  rw [step_rxChunk s c xs hp]
  apply congrArg Host.Outcome.next
  by_cases running : s.faultCode = .noFault
  · rw [if_neg (not_not.2 running)]
    split
    · next inTx => exact rxChunk_tx (setPending xs s) c inTx
    · next single => exact rxChunk_awaitSingle (setPending xs s) c running single
    · next all => exact rxChunk_awaitAll (setPending xs s) c running all
    · next idle => exact rxChunk_idle (setPending xs s) c running idle
  · rw [if_pos running]
    exact rxChunk_halted (setPending xs s) c running

/-! ### The wait requests (R135, R138) -/

/-- Settles O23: with a send to answer the idle block ends the wait on the first chunk queued, or starts it. -/
theorem awaitSingleStartsOrEnds : Obligations.AwaitSingleStartsOrEnds := by
  intro t s running
  refine ⟨fun idle sent => ?_, fun idle unsent => ?_, takeRequest_overlap (startAwaitSingle t) running⟩
  · rw [exec, execAwaitSingle, takeRequest_idle s _ running idle]
    apply congrArg Host.Outcome.next
    split
    · next c cs queue => exact startAwaitSingle_queued s t c cs sent queue
    · next queue => exact startAwaitSingle_empty s t sent queue
  · exact takeRequest_fault running idle (startAwaitSingle_unsent s t unsent)

/-- Settles O24: with a send to answer the idle block ends an empty window at once, or starts it. -/
theorem awaitAllStartsOrEnds : Obligations.AwaitAllStartsOrEnds := by
  intro t s running
  refine ⟨fun idle sent => ?_, fun idle unsent => ?_, takeRequest_overlap (startAwaitAll t) running⟩
  · rw [exec, execAwaitAll, takeRequest_idle s _ running idle, startAwaitAll_sent s t sent]
    by_cases window : t = 0#32
    · rw [if_pos window, if_pos window, endGather_eq, startWait_rxq]
      cases s.rxq with
      | nil => rfl
      | cons c cs => rfl
    · rw [if_neg window, if_neg window]
      rfl
  · exact takeRequest_fault running idle (startAwaitAll_unsent s t unsent)

/-! ### Ticks (R137, R139) -/

/-- A tick of a wait before its last is counted (R137). -/
theorem step_tick_counted (running : s.faultCode = .noFault)
    (waiting : s.state = .awaitSingle ∨ s.state = .awaitAll) (hp : s.pending = .tick :: xs)
    (notLast : s.timer + 1#32 ≠ s.tlimit) : step s = .next (countTick (setPending xs s)) := by
  rcases waiting with single | all
  · rw [step_tick s xs hp, tick_awaitSingle (setPending xs s) running single]
    exact congrArg Host.Outcome.next (if_neg notLast)
  · exact step_tick_awaitAll_of_ne all running hp notLast

/-- The last tick of a single wait ends it with NO_RESPONSE (R137). -/
theorem step_tick_timeout (running : s.faultCode = .noFault) (waiting : s.state = .awaitSingle)
    (hp : s.pending = .tick :: xs) (last : s.timer + 1#32 = s.tlimit) :
    step s = .next (endWait .noResponse (countTick (setPending xs s))) := by
  rw [step_tick s xs hp, tick_awaitSingle (setPending xs s) running waiting]
  exact congrArg Host.Outcome.next (if_pos last)

/-- Settles O25: a tick outside a wait, before the last of a wait, and the last of each wait. -/
theorem tickCountsAndEndsWaits : Obligations.TickCountsAndEndsWaits := by
  intro s xs hp
  refine ⟨fun outside => ?_, fun running waiting notLast => step_tick_counted running waiting hp notLast,
    fun running waiting last => step_tick_timeout running waiting hp last, fun running waiting last => ?_⟩
  · rw [step_tick s xs hp, tick_idle (setPending xs s) outside]
    rfl
  · rw [step_tick_awaitAll_of_eq waiting running hp last, endGather_eq, countTick_rxq, setPending_rxq]
    cases s.rxq with
    | nil => rfl
    | cons c cs => rfl

/-! ### The two ends of a single wait (R136, R137, R143) -/

/-- The block after `k` more ticks of its wait, none of them the last. -/
def afterTicks (k : Nat) (xs : List Input) (s : State) : State :=
  { s with pending := xs, timer := BitVec.ofNat 32 (s.timer.toNat + k) }

theorem afterTicks_zero (hp : s.pending = xs) : afterTicks 0 xs s = s := by
  subst hp
  simp [afterTicks]

/-- The first of the ticks counted by itself. -/
theorem afterTicks_countTick {k : Nat} {ys : List Input} (h : s.timer < s.tlimit) :
    afterTicks k xs (countTick (setPending ys s)) = afterTicks (k + 1) xs s := by
  have htimer : (s.timer + 1#32).toNat + k = s.timer.toNat + (k + 1) := by bv_omega
  simp only [afterTicks, countTick_timer, setPending_timer, htimer]
  rfl

/-- Ticks that do not reach `TLIMIT` only count (R137). -/
theorem run_ticks {k : Nat} (m : Nat) (running : s.faultCode = .noFault)
    (waiting : s.state = .awaitSingle ∨ s.state = .awaitAll) (below : s.timer.toNat + k < s.tlimit.toNat)
    (hp : s.pending = List.replicate k .tick ++ xs) :
    Sys2Proof.core.run (k + m) s = Sys2Proof.core.run m (afterTicks k xs s) := by
  induction k generalizing s with
  | zero => rw [Nat.zero_add, afterTicks_zero (xs := xs) hp]
  | succ k ih =>
    have notLast : s.timer + 1#32 ≠ s.tlimit := by bv_omega
    have hlt : s.timer < s.tlimit := by bv_omega
    have hbelow : (s.timer + 1#32).toNat + k < s.tlimit.toNat := by bv_omega
    rw [Nat.add_right_comm, run_succ _ s _ (step_tick_counted running waiting hp notLast), ← afterTicks_countTick hlt]
    exact ih running waiting hbelow rfl

/-- Settles O26: all ticks but the last count, and the last ends the wait. -/
theorem singleWaitTimesOut : Obligations.SingleWaitTimesOut := by
  intro s k xs waiting running hlt hticks hp
  obtain ⟨j, rfl⟩ : ∃ j, k = j + 1 := Nat.exists_eq_add_one.2 (by bv_omega)
  rw [List.replicate_succ', ← List.append_cons] at hp
  have last : BitVec.ofNat 32 (s.timer.toNat + j) + 1#32 = s.tlimit := by
    rw [← BitVec.ofNat_add, Nat.add_assoc, hticks, BitVec.ofNat_toNat, BitVec.setWidth_eq]
  rw [run_ticks 1 running (.inl waiting) (by omega) hp,
    run_succ 0 _ _ (step_tick_timeout (s := afterTicks j _ s) running waiting rfl last), run_zero]
  simp only [endWait_eq, countTick, setPending, afterTicks, last]

/-- Settles O27: the ticks count, and the chunk ends the wait. -/
theorem singleWaitReturnsFirstChunk : Obligations.SingleWaitReturnsFirstChunk := by
  intro s k c xs waiting running below hp
  rw [run_ticks 1 running (.inl waiting) below hp, run_succ 0 _ _ (step_rxChunk _ c xs rfl), run_zero,
    rxChunk_ends_wait (s := setPending xs (afterTicks k _ s)) c running waiting]
  rfl

/-! ### Wire commands at the block (R75 to R79, R134, R136) -/

/-- A command's meaning is that of the chunk of its bytes (R134). -/
theorem exec_eq_rxChunk {i : Instr} {c : Chunk} (h : encodeInstr i = .frame c.bytes) (s : State) :
    exec i s = .next (rxChunk c s) := by
  have decodes : decodeInstr (.frame c.bytes) = .ok i := h ▸ decodeOfEncodeIsIdentity i
  exact exec_of_decodeFrame c i decodes s

/-- No command's frame is empty, so its bytes are a chunk (R130). -/
theorem exists_chunk_of_encodeInstr {i : Instr} {bs : List Byte} (h : encodeInstr i = .frame bs) :
    ∃ c : Chunk, bs = c.bytes := by
  cases bs with
  | nil =>
    obtain ⟨x, hx⟩ := codeInput_encodeInstr i
    rw [h] at hx
    cases hx
  | cons b bs => exact ⟨⟨b, bs⟩, rfl⟩

/-- A well-formed command's bytes are a frame with its right checksum (R72, R75 to R79). -/
theorem frame_of_wellFormed {i : Instr} {bs : List Byte} (wf : WellFormed i) (h : encodeInstr i = .frame bs) :
    (∃ a c, bs = basicFrame a c) ∨ ∃ a c n, bs = extFrame a c n := by
  cases i with
  | getDoorStatus a k =>
    cases h
    exact .inl ⟨a, 0x30#8, by rw [eq_of_beq wf]; rfl⟩
  | unlock a k =>
    cases h
    exact .inl ⟨a, 0x31#8, by rw [eq_of_beq wf]; rfl⟩
  | getBusStatus a k =>
    cases h
    exact .inl ⟨a, 0x32#8, by rw [eq_of_beq wf]; rfl⟩
  | broadcastRecruit a n k =>
    cases h
    exact .inr ⟨a, 0x80#8, n, by rw [eq_of_beq wf]; rfl⟩
  | assignNewAddress a n k =>
    cases h
    exact .inr ⟨a, 0x81#8, n, by rw [eq_of_beq wf]; rfl⟩
  | _ => cases h

/-- Settles O30: the command's bytes are a frame of an encoder, whose verdict is its fields. -/
theorem wireCommandsEndASingleWait : Obligations.WireCommandsEndASingleWait := by
  intro i s c wf h running waiting
  rw [exec_eq_rxChunk h, rxChunk_ends_wait c running waiting]
  rcases frame_of_wellFormed wf h with ⟨a, cmd, hbs⟩ | ⟨a, cmd, n, hbs⟩
  · rw [hbs, verdict_basicFrame]
    exact ⟨_, rfl, rfl, rfl, fun _ => rfl, by simp⟩
  · rw [hbs, verdict_extFrame]
    exact ⟨_, rfl, rfl, rfl, by simp, fun _ => ⟨n, rfl, rfl⟩⟩

/-- Settles O31: the command's bytes are a chunk, which is dropped there. -/
theorem wireCommandsElsewhereAreDiscarded : Obligations.WireCommandsElsewhereAreDiscarded := by
  intro i s bs h outside
  obtain ⟨c, rfl⟩ := exists_chunk_of_encodeInstr h
  rw [exec_eq_rxChunk h, rxChunk_discarded c outside]

end Sys2Proof.Machine
end

section
/-!
The host's boundary calls (42_host_sequences.md R170 to R177). Every call is an encoder, SEND and a wait: what a turn does
to a call and where a call ends is said once, the send is followed once for all five calls, and each statement goes on from
there.
-/

namespace Sys2Proof.Machine

variable {s : State} {ts : List Turn}

/-! ### The shape of a call (R172 to R176) -/

/-- The request that builds the call's frame. -/
def callEncoder (p : Config.Params) : HostCall → Instr
  | .sendRaw a c => .encode a c
  | .getSingleStatus a => .encode a 0x30#8
  | .getBusStatus => .encode 0xF0#8 0x32#8
  | .assignAddress o n => .encodeExt o 0x81#8 n
  | .beginRecruitment => .encodeExt 0xFF#8 0x80#8 p.recruitNewaddr

/-- The frame the call sends. -/
def callFrame (p : Config.Params) : HostCall → List Byte
  | .sendRaw a c => basicFrame a c
  | .getSingleStatus a => basicFrame a 0x30#8
  | .getBusStatus => basicFrame 0xF0#8 0x32#8
  | .assignAddress o n => extFrame o 0x81#8 n
  | .beginRecruitment => extFrame 0xFF#8 0x80#8 p.recruitNewaddr

/-- The wait that follows the call's send, if there is one. -/
def callWait (p : Config.Params) : HostCall → List Instr
  | .sendRaw _ _ => [.awaitSingle p.tSingle]
  | .getSingleStatus _ => [.awaitSingle p.tSingle]
  | .getBusStatus => [.awaitAll p.tAll]
  | .assignAddress _ _ => [.awaitSingle p.tSingle]
  | .beginRecruitment => recruitWait p

theorem beginCall_eq (p : Config.Params) (q : HostCall) :
    beginCall p q = ⟨false, callEncoder p q :: .send :: callWait p q⟩ := by
  cases q <;> rfl

theorem callFrame_ne_nil (p : Config.Params) (q : HostCall) : callFrame p q ≠ [] := by
  cases q <;> exact List.cons_ne_nil _ _

theorem callFrame_length_le (p : Config.Params) (q : HostCall) : (callFrame p q).length ≤ 9 := by
  cases q <;> simp [callFrame]

/-- The call's first request builds its frame (R101, R102). -/
theorem exec_callEncoder (p : Config.Params) (q : HostCall) (idle : s.state = .idle)
    (running : s.faultCode = .noFault) : exec (callEncoder p q) s = .next (buildFrame (callFrame p q) s) := by
  cases q with
  | sendRaw a c => exact exec_encode_idle idle running a c
  | getSingleStatus a => exact exec_encode_idle idle running a _
  | getBusStatus => exact exec_encode_idle idle running _ _
  | assignAddress o n => exact exec_encodeExt_idle idle running o _ n
  | beginRecruitment => exact exec_encodeExt_idle idle running _ _ _

/-! ### The frames with their bytes written out (R72, R75, R77 to R79) -/

theorem basicFrame_doorStatus (a : Byte) : basicFrame a 0x30#8 = [0x02#8, a, 0x30#8, 0x03#8, 0x35#8 + a] := by
  have hsum : 0x02#8 + a + 0x30#8 + 0x03#8 = 0x35#8 + a := by bv_omega
  rw [basicFrame_eq_sum, hsum]

theorem basicFrame_busStatus : basicFrame 0xF0#8 0x32#8 = [0x02#8, 0xF0#8, 0x32#8, 0x03#8, 0x27#8] := by decide

theorem extFrame_assign (o n : Byte) :
    extFrame o 0x81#8 n = [0x02#8, o, 0x81#8, n, 0#8, 0#8, 0#8, 0x03#8, 0x86#8 + o + n] := by
  have hsum : 0x02#8 + o + 0x81#8 + n + 0x03#8 = 0x86#8 + o + n := by bv_omega
  rw [extFrame_eq_sum, hsum]

theorem extFrame_recruit (n : Byte) :
    extFrame 0xFF#8 0x80#8 n = [0x02#8, 0xFF#8, 0x80#8, n, 0#8, 0#8, 0#8, 0x03#8, 0x84#8 + n] := by
  have hsum : 0x02#8 + 0xFF#8 + 0x80#8 + n + 0x03#8 = 0x84#8 + n := by bv_omega
  rw [extFrame_eq_sum, hsum]

/-! ### One turn (R177) -/

/-- On a block that is busy or halted the host waits (R177, R213). -/
theorem callTurn_host_waits (k : CallProgress) (h : s.state ≠ .idle ∨ s.faultCode ≠ .noFault) :
    callTurn .host k s = some (k, s) := by
  have notReady : (s.busy || s.halted) = true := by
    rcases h with busy | halted
    · simp [(State.busy_eq_true s).2 busy]
    · simp [(State.halted_eq_true s).2 halted]
  exact if_pos notReady

/-- On an idle block the host issues the call's next request. -/
theorem callTurn_host_issues (b : Bool) {i : Instr} (is : List Instr) {t : State} (idle : s.state = .idle)
    (running : s.faultCode = .noFault) (hexec : exec i s = .next t) :
    callTurn .host ⟨b, i :: is⟩ s = some (⟨true, is⟩, t) := by
  simp [callTurn, (State.busy_eq_false s).2 idle, (State.halted_eq_false s).2 running, hexec]

/-- An input from outside the call leaves the call where it is. -/
theorem callTurn_outside (k : CallProgress) {x : Input} {t : State} (h : takeInput x s = .next t) :
    callTurn (.outside x) k s = some (k, t) := by
  simp [callTurn, h]

/-! ### The end of a call (R170, R171) -/

/-- The call has stopped or is complete. -/
def callEnded (k : CallProgress) (s : State) : Bool := callStopped k s || callFinished k s

theorem runCall_of_ended {k : CallProgress} (h : callEnded k s = true) :
    runCall ts k s = some (callRecord s, s) := by
  cases ts with
  | nil => exact if_pos h
  | cons t ts => exact if_pos h

theorem runCall_turn {t : Turn} {k k' : CallProgress} {s' : State} (going : callEnded k s = false)
    (hturn : callTurn t k s = some (k', s')) : runCall (t :: ts) k s = runCall ts k' s' := by
  have hgo : ¬ (callStopped k s || callFinished k s) = true := Bool.eq_false_iff.1 going
  rw [runCall, if_neg hgo, hturn]

/-- A call that has not begun has not ended. -/
theorem callEnded_beginCall (p : Config.Params) (q : HostCall) : callEnded (beginCall p q) s = false := rfl

/-- A call goes on while nothing has failed and a request is left or in progress. -/
theorem callEnded_going {is : List Instr} (running : s.faultCode = .noFault)
    (noError : s.result ≠ .ioError) (more : is ≠ [] ∨ s.state ≠ .idle) : callEnded ⟨true, is⟩ s = false := by
  have notHalted : s.halted = false := (State.halted_eq_false s).2 running
  rcases more with left | busy
  · simp [callEnded, callStopped, callFinished, notHalted, noError, left]
  · simp [callEnded, callStopped, callFinished, notHalted, noError, (State.busy_eq_true s).2 busy]

/-- A fault or IO_ERROR ends the call (R171). -/
theorem callEnded_failed (is : List Instr) (h : s.faultCode ≠ .noFault ∨ s.result = .ioError) :
    callEnded ⟨true, is⟩ s = true := by
  rcases h with halted | error
  · simp [callEnded, callStopped, (State.halted_eq_true s).2 halted]
  · simp [callEnded, callStopped, error]

/-- With no request left the call ends when the block is idle (R170). -/
theorem callEnded_complete (idle : s.state = .idle) : callEnded ⟨true, []⟩ s = true := by
  simp [callEnded, callFinished, (State.busy_eq_false s).2 idle]

theorem callRecord_ioError (h : s.result = .ioError) : callRecord s = .failure "IOError" := if_pos h

theorem callRecord_fault (noError : s.result ≠ .ioError) (halted : s.faultCode ≠ .noFault) :
    callRecord s = .failure (faultName s.faultCode) := by
  rw [callRecord, if_neg noError, if_pos ((State.halted_eq_true s).2 halted)]

theorem callRecord_success (noError : s.result ≠ .ioError) (running : s.faultCode = .noFault) :
    callRecord s = .success (hex s.frame) s.result := by
  simp [callRecord, noError, (State.halted_eq_false s).2 running]

/-! ### Waiting is no turn of the call (R177, R213) -/

/-- Settles O56, by induction on the host's turns. -/
theorem callsBeginOnAReadyBlockOnly : Obligations.CallsBeginOnAReadyBlockOnly := by
  intro p q s n ts notReady
  induction n with
  | zero => rfl
  | succ n ih =>
    rw [List.replicate_succ, List.cons_append,
      runCall_turn (callEnded_beginCall p q) (callTurn_host_waits _ notReady), ih]

/-! ### The send (R172 to R176) -/

/-- SEND of the frame just built (R131). -/
theorem exec_send_buildFrame {f : List Byte} (hpos : f ≠ []) (hlen : f.length ≤ 9) (idle : s.state = .idle)
    (running : s.faultCode = .noFault) : exec .send (buildFrame f s) = .next (inTransmission f s) := by
  have hsend : startSend (buildFrame f s) = inTransmission f s :=
    startSend_buildFrame (xs := s.pending) hpos hlen
  rw [exec, execSend, takeRequest_idle (buildFrame f s) startSend running idle, hsend]

/-- The block after a send of `f` that the line reports done (R132). -/
def acknowledged (f : List Byte) (s : State) : State := txDone (inTransmission f s)

@[simp] theorem acknowledged_state (f : List Byte) : (acknowledged f s).state = .idle := rfl
@[simp] theorem acknowledged_sent (f : List Byte) : (acknowledged f s).sent = true := rfl
@[simp] theorem acknowledged_result (f : List Byte) : (acknowledged f s).result = .ack := rfl
@[simp] theorem acknowledged_rxq (f : List Byte) : (acknowledged f s).rxq = [] := txDone_rxq _

@[simp] theorem acknowledged_faultCode (f : List Byte) : (acknowledged f s).faultCode = s.faultCode :=
  lineDone_faultCode (inTransmission f s)

theorem acknowledged_bus {f : List Byte} (hpos : f ≠ []) : (acknowledged f s).bus = s.bus ++ [f] :=
  lineDone_bus (inTransmission f s) hpos

theorem acknowledged_frame {f : List Byte} (hlen : f.length ≤ 9) : (acknowledged f s).frame = f := by
  rw [acknowledged, txDone_frame]
  exact frame_buildFrame s f hlen

section send

variable (p : Config.Params) (q : HostCall) (idle : s.state = .idle) (running : s.faultCode = .noFault)

section turns

include idle running

theorem callTurn_encode : callTurn .host (beginCall p q) s =
    some (⟨true, .send :: callWait p q⟩, buildFrame (callFrame p q) s) := by
  rw [beginCall_eq]
  exact callTurn_host_issues false _ idle running (exec_callEncoder p q idle running)

theorem callTurn_send : callTurn .host ⟨true, .send :: callWait p q⟩ (buildFrame (callFrame p q) s) =
    some (⟨true, callWait p q⟩, inTransmission (callFrame p q) s) :=
  callTurn_host_issues (s := buildFrame (callFrame p q) s) true _ idle running
    (exec_send_buildFrame (callFrame_ne_nil p q) (callFrame_length_le p q) idle running)

end turns

include running in
theorem callTurn_txDone (k : CallProgress) (f : List Byte) :
    callTurn (.outside .txDone) k (inTransmission f s) = some (k, acknowledged f s) :=
  callTurn_outside k (lineReport_tx (s := inTransmission f s) txDone running rfl)

include running in
/-- While the send is in progress the call goes on. -/
theorem callEnded_inTransmission (is : List Instr) (f : List Byte) :
    callEnded ⟨true, is⟩ (inTransmission f s) = false :=
  callEnded_going (s := inTransmission f s) running (by simp [inTransmission]) (.inr (by simp [inTransmission]))

include idle running

/-- The host's first two turns bring any call into its send. -/
theorem runCall_send : runCall (.host :: .host :: ts) (beginCall p q) s =
    runCall ts ⟨true, callWait p q⟩ (inTransmission (callFrame p q) s) := by
  have going : callEnded ⟨true, .send :: callWait p q⟩ (buildFrame (callFrame p q) s) = false :=
    callEnded_going (s := buildFrame (callFrame p q) s) running (by simp) (.inl (List.cons_ne_nil _ _))
  rw [runCall_turn (callEnded_beginCall p q) (callTurn_encode p q idle running),
    runCall_turn going (callTurn_send p q idle running)]

/-- TX_DONE then leaves the wait to issue. -/
theorem runCall_send_txDone : runCall (.host :: .host :: .outside .txDone :: ts) (beginCall p q) s =
    runCall ts ⟨true, callWait p q⟩ (acknowledged (callFrame p q) s) := by
  rw [runCall_send p q idle running,
    runCall_turn (callEnded_inTransmission running _ _) (callTurn_txDone running _ _)]

end send

/-- Settles O50: the frame is on the bus after the send, and each call's frame has the bytes of its rule. -/
theorem callsSendTheirFrame : Obligations.CallsSendTheirFrame := by
  intro p q s idle running
  refine ⟨_, _, acknowledged (callFrame p q) s, callTurn_encode p q idle running, _, _,
    callTurn_send p q idle running, callTurn_txDone running _ _, rfl, rfl, ?_⟩
  rw [acknowledged_bus (callFrame_ne_nil p q)]
  cases q with
  | sendRaw a c => exact ⟨by rw [callFrame, basicFrame_eq_sum], rfl⟩
  | getSingleStatus a => exact ⟨by rw [callFrame, basicFrame_doorStatus], rfl⟩
  | getBusStatus => exact ⟨by rw [callFrame, basicFrame_busStatus], rfl⟩
  | assignAddress o n => exact ⟨by rw [callFrame, extFrame_assign], rfl⟩
  | beginRecruitment => exact ⟨by rw [callFrame, extFrame_recruit], rfl⟩

/-! ### Calls that stop in their send (R171) -/

/-- A legal operation code decodes (R84). -/
theorem decodeInstr_of_legal {w : ReqWord} (bs : List Byte) (h1 : 1 ≤ w.toNat % 16) (h6 : w.toNat % 16 ≤ 6) :
    ∃ i, decodeInstr (.request w bs) = .ok i := by
  rw [← reqOp_toNat] at h1 h6
  have codes : (reqOp w).toNat = 1 ∨ (reqOp w).toNat = 2 ∨ (reqOp w).toNat = 3 ∨ (reqOp w).toNat = 4 ∨
      (reqOp w).toNat = 5 ∨ (reqOp w).toNat = 6 := by omega
  rcases codes with h | h | h | h | h | h
  · exact ⟨_, decodeInstr_op_encode h⟩
  · exact ⟨_, decodeInstr_op_encodeExt h⟩
  · exact ⟨_, decodeInstr_op_decode h⟩
  · exact ⟨_, decodeInstr_op_send h⟩
  · exact ⟨_, decodeInstr_op_awaitSingle h⟩
  · exact ⟨_, decodeInstr_op_awaitAll h⟩

/-- A legal request that lands on a busy block takes OVERLAP (R206). -/
theorem takeInput_request_busy {w : ReqWord} (bs : List Byte) (h1 : 1 ≤ w.toNat % 16) (h6 : w.toNat % 16 ≤ 6)
    (running : s.faultCode = .noFault) (busy : s.state ≠ .idle) :
    takeInput (.request w bs) s = .next (raiseFault .overlap s) := by
  rw [takeInput]
  rcases takeRequestWord_cases w bs s with ⟨i, -, he⟩ | ⟨r, illegal, -⟩
  · rw [he, takeRequest_busy s (requestOp i) running busy]
  · obtain ⟨i, legal⟩ := decodeInstr_of_legal bs h1 h6
    rw [illegal] at legal
    cases legal

/-- Settles O51: TX_FAIL leaves IO_ERROR, which ends the call before its wait. -/
theorem callsStopOnIoError : Obligations.CallsStopOnIoError := by
  intro p q s ts idle running
  have hfail : takeInput .txFail (inTransmission (callFrame p q) s) =
      .next (txFail (inTransmission (callFrame p q) s)) :=
    lineReport_tx (s := inTransmission (callFrame p q) s) txFail running rfl
  refine ⟨txFail (inTransmission (callFrame p q) s), ?_, rfl, rfl, rfl,
    (lineCut_faultCode (inTransmission (callFrame p q) s)).trans running⟩
  rw [runCall_send p q idle running,
    runCall_turn (callEnded_inTransmission running _ _) (callTurn_outside _ hfail),
    runCall_of_ended (callEnded_failed _ (.inr rfl)), callRecord_ioError rfl]

/-- A call whose block takes a fault ends with the name of the fault (R170, R171). -/
theorem runCall_raiseFault {code : FaultCode} (is : List Instr) (running : s.faultCode = .noFault)
    (noError : s.result ≠ .ioError) (fault : code ≠ .noFault) :
    runCall ts ⟨true, is⟩ (raiseFault code s) = some (.failure (faultName code), raiseFault code s) := by
  have hcode : (raiseFault code s).faultCode = code := raiseFault_code s code running
  have halted : (raiseFault code s).faultCode ≠ .noFault := hcode.symm ▸ fault
  have noError' : (raiseFault code s).result ≠ .ioError := (raiseFault_result s code).symm ▸ noError
  rw [runCall_of_ended (callEnded_failed is (.inl halted)), callRecord_fault noError' halted, hcode]

/-- Settles O55: the request halts the block in TX, which ends the call. -/
theorem callsStopOnOverlap : Obligations.CallsStopOnOverlap := by
  intro p q s w bs ts idle running h1 h6
  have overlap : takeInput (.request w bs) (inTransmission (callFrame p q) s) =
      .next (raiseFault .overlap (inTransmission (callFrame p q) s)) :=
    takeInput_request_busy (s := inTransmission _ s) bs h1 h6 running (by simp [inTransmission])
  refine ⟨raiseFault .overlap (inTransmission (callFrame p q) s), ?_, raiseFault_code _ _ running,
    raiseFault_state _ _⟩
  rw [runCall_send p q idle running,
    runCall_turn (callEnded_inTransmission running _ _) (callTurn_outside _ overlap),
    runCall_raiseFault (s := inTransmission _ s) _ running (by simp [inTransmission]) (by decide), faultName]

/-! ### Calls that succeed (R170) -/

/-- Settles O54: with no wait the call is complete on TX_DONE. -/
theorem recruitCallWithoutWaitEndsWithAck : Obligations.RecruitCallWithoutWaitEndsWithAck := by
  intro p s ts idle running noWait
  have nothingLeft : callWait p .beginRecruitment = [] := by rw [callWait, recruitWait, noWait]
  refine ⟨acknowledged (callFrame p .beginRecruitment) s, ?_, rfl, rfl⟩
  rw [runCall_send_txDone p _ idle running, nothingLeft, runCall_of_ended (callEnded_complete rfl),
    callRecord_success (by simp) (by simp [running]), acknowledged_frame (callFrame_length_le _ _), callFrame,
    extFrame_recruit, acknowledged_result]

/-- AWAIT_SINGLE with nothing queued and time to wait starts the wait (R135). -/
theorem exec_awaitSingle_waits {t : Ticks} (idle : s.state = .idle) (running : s.faultCode = .noFault)
    (sent : s.sent = true) (queue : s.rxq = []) (ht : t ≠ 0#32) :
    exec (.awaitSingle t) s = .next (enterState .awaitSingle (startWait t s)) := by
  rw [exec, execAwaitSingle, takeRequest_idle s _ running idle, startAwaitSingle_empty s t sent queue, if_neg ht]

/-- A single wait issued and then answered by a chunk (R135, R136). -/
theorem runCall_awaitSingle_reply {t : Ticks} (c : Chunk) (idle : s.state = .idle)
    (running : s.faultCode = .noFault) (sent : s.sent = true) (queue : s.rxq = []) (ht : t ≠ 0#32)
    (noError : s.result ≠ .ioError) :
    ∃ u, runCall (.host :: .outside (.rxChunk c) :: ts) ⟨true, [.awaitSingle t]⟩ s =
        some (.success (hex s.frame) (.response ⟨c, verdict c.bytes⟩), u) ∧
      u.state = .idle ∧ u.sent = false ∧ u.rxq = [] := by
  have issued : callEnded ⟨true, [.awaitSingle t]⟩ s = false :=
    callEnded_going running noError (.inl (List.cons_ne_nil _ _))
  have waiting : callEnded ⟨true, []⟩ (enterState .awaitSingle (startWait t s)) = false :=
    callEnded_going (s := enterState _ (startWait t s)) running noError (.inr (by simp))
  have answered : takeInput (.rxChunk c) (enterState .awaitSingle (startWait t s)) =
      .next (endWait (.response (reply c)) (enqueue c (enterState .awaitSingle (startWait t s)))) := by
    rw [takeInput, takeChunk_eq, rxChunk_awaitSingle (enterState _ (startWait t s)) c running rfl]
  refine ⟨endWait (.response (reply c)) (enqueue c (enterState .awaitSingle (startWait t s))), ?_, rfl, rfl, rfl⟩
  rw [runCall_turn issued (callTurn_host_issues true [] idle running
      (exec_awaitSingle_waits idle running sent queue ht)),
    runCall_turn waiting (callTurn_outside _ answered), runCall_of_ended (callEnded_complete rfl),
    callRecord_success (s := endWait _ (enqueue c (enterState _ (startWait t s)))) (by simp) running]
  rfl

/-- Settles O52: the send, and then a single wait with a reply. -/
theorem singleStatusCallReturnsTheReply : Obligations.SingleStatusCallReturnsTheReply := by
  intro p a c s ts idle running ht
  have hframe : (acknowledged (callFrame p (.getSingleStatus a)) s).frame =
      [0x02#8, a, 0x30#8, 0x03#8, 0x35#8 + a] :=
    (acknowledged_frame (callFrame_length_le _ _)).trans (basicFrame_doorStatus a)
  rw [runCall_send_txDone p _ idle running, ← hframe]
  exact runCall_awaitSingle_reply c rfl (by simp [running]) rfl (by simp) ht (by simp)

/-- The record of a call whose last wait is a gather-all window that ran out (R139, R170). -/
theorem callRecord_afterWindow (cs : List Chunk) (xs : List Input) (running : s.faultCode = .noFault) :
    callRecord (afterWindow cs xs s) = .success (hex s.frame) (gatherResult cs) := by
  have noError : gatherResult cs ≠ .ioError := by
    cases cs <;> simp [gatherResult]
  exact callRecord_success (s := afterWindow cs xs s) noError running

/-- The ticks of a gather-all window, up to the one that ends it and the call (R137, R139). -/
theorem runCall_ticks {m : Nat} (waiting : s.state = .awaitAll) (running : s.faultCode = .noFault)
    (noError : s.result ≠ .ioError) (hticks : s.timer.toNat + m + 1 = s.tlimit.toNat) :
    runCall (List.replicate (m + 1) (.outside .tick) ++ ts) ⟨true, []⟩ s =
      some (.success (hex s.frame) (gatherResult s.rxq), afterWindow s.rxq s.pending s) := by
  have going : callEnded ⟨true, []⟩ s = false := callEnded_going running noError (.inr (by simp [waiting]))
  rw [List.replicate_succ, List.cons_append]
  induction m generalizing s with
  | zero =>
    have last : s.timer + 1#32 = s.tlimit := by bv_omega
    have ends : takeInput .tick s = .next (afterWindow s.rxq s.pending s) := by
      rw [takeInput, tick_awaitAll s running waiting, if_pos last]
      exact congrArg Host.Outcome.next (endGather_countTick_eq_afterWindow (xs := s.pending) last)
    rw [runCall_turn going (callTurn_outside _ ends), runCall_of_ended (callEnded_complete rfl),
      callRecord_afterWindow _ _ running]
  | succ m ih =>
    have notLast : s.timer + 1#32 ≠ s.tlimit := by bv_omega
    have hnext : (s.timer + 1#32).toNat + m + 1 = s.tlimit.toNat := by bv_omega
    have counts : takeInput .tick s = .next (countTick s) := by
      rw [takeInput, tick_awaitAll s running waiting, if_neg notLast]
    rw [runCall_turn going (callTurn_outside _ counts), List.replicate_succ, List.cons_append]
    exact ih (s := countTick s) waiting running noError hnext
      (callEnded_going (s := countTick s) running noError (.inr (by simp [waiting])))

/-- A gather-all window issued and then left to its ticks; a window of no ticks ends at once (R138, R139). -/
theorem runCall_awaitAll_ticks (t : Ticks) (idle : s.state = .idle) (running : s.faultCode = .noFault)
    (sent : s.sent = true) (noError : s.result ≠ .ioError) :
    ∃ u, runCall (.host :: (List.replicate t.toNat (.outside .tick) ++ ts)) ⟨true, [.awaitAll t]⟩ s =
        some (.success (hex s.frame) (gatherResult s.rxq), u) ∧
      u.timer = t ∧ u.state = .idle ∧ u.sent = false := by
  have issued : callEnded ⟨true, [.awaitAll t]⟩ s = false :=
    callEnded_going running noError (.inl (List.cons_ne_nil _ _))
  have hexec : exec (.awaitAll t) s =
      .next (if t = 0#32 then endGather (startWait t s) else enterState .awaitAll (startWait t s)) := by
    rw [exec, execAwaitAll, takeRequest_idle s _ running idle, startAwaitAll_sent s t sent]
  refine ⟨afterWindow s.rxq s.pending (startWait t s), ?_, rfl, rfl, rfl⟩
  rw [runCall_turn issued (callTurn_host_issues true [] idle running hexec)]
  by_cases ht : t = 0#32
  · have hend : endGather (startWait t s) = afterWindow s.rxq s.pending (startWait t s) := by
      subst ht
      rfl
    rw [if_pos ht, hend, runCall_of_ended (callEnded_complete rfl),
      callRecord_afterWindow (s := startWait t s) _ _ running, startWait_frame]
  · obtain ⟨m, hm⟩ : ∃ m, t.toNat = m + 1 := Nat.exists_eq_add_one.2 (by bv_omega)
    rw [if_neg ht, hm]
    exact runCall_ticks (s := enterState .awaitAll (startWait t s)) rfl running noError (by simp [hm])

/-- Settles O53: the send, and then a window in which nothing is captured. -/
theorem busStatusCallWithNoReplySucceeds : Obligations.BusStatusCallWithNoReplySucceeds := by
  intro p s ts idle running
  have hframe : (acknowledged (callFrame p .getBusStatus) s).frame = [0x02#8, 0xF0#8, 0x32#8, 0x03#8, 0x27#8] :=
    (acknowledged_frame (callFrame_length_le _ _)).trans basicFrame_busStatus
  have nothing : gatherResult (acknowledged (callFrame p .getBusStatus) s).rxq = .noResponse := by
    rw [acknowledged_rxq, gatherResult]
  simp only [List.cons_append, List.nil_append]
  rw [runCall_send_txDone p _ idle running, ← hframe, ← nothing]
  exact runCall_awaitAll_ticks p.tAll rfl (by simp [running]) rfl (by simp)

end Sys2Proof.Machine
end

section
/-!
Faults and the halt (60_exceptions.md R205 to R211): what each request raises and in which order, that fault entry keeps
the rest of `S`, what it leaves on the bus, and that only reset ends a halt.
-/

namespace Sys2Proof.Machine

variable {s t : State} {x : Input} {xs : List Input}

/-! ### Every instruction and every wait has a next state (R214, R219) -/

/-- Settles O7: the step's branch for an empty `pending`. -/
theorem waitsWithoutInput : Obligations.WaitsWithoutInput := by
  intro s hp
  simp only [step, hp, waitForInput]

/-- An instruction encoded as a request is its operation as a request (R84, R210). -/
theorem exec_eq_takeRequest {i : Instr} {w : ReqWord} {bs : List Byte} (h : encodeInstr i = .request w bs)
    (s : State) : exec i s = .next (takeRequest (requestOp i) s) := by
  cases i with
  | encode | encodeExt | decode | send | awaitSingle | awaitAll => rfl
  | _ => cases h

/-- Settles O9: an instruction is a request or a chunk, and either has a next state. -/
theorem everyInstructionCompletes : Obligations.EveryInstructionCompletes := by
  intro i s
  cases h : encodeInstr i with
  | request w bs => exact ⟨_, exec_eq_takeRequest h s⟩
  | frame bs =>
    obtain ⟨c, rfl⟩ := exists_chunk_of_encodeInstr h
    exact ⟨_, exec_eq_rxChunk h s⟩

/-! ### `FAULT_CODE` through the operations that raise no fault -/

@[simp] theorem buildFrame_faultCode (s : State) (f : List Byte) : (buildFrame f s).faultCode = s.faultCode := rfl
@[simp] theorem decodeBytes_faultCode (s : State) (bs : List Byte) :
    (decodeBytes bs s).faultCode = s.faultCode := rfl
@[simp] theorem endWait_faultCode (s : State) (r : Result) : (endWait r s).faultCode = s.faultCode := rfl
@[simp] theorem txDone_faultCode (s : State) : (txDone s).faultCode = s.faultCode := by simp [txDone]
@[simp] theorem txFail_faultCode (s : State) : (txFail s).faultCode = s.faultCode := by simp [txFail]

theorem startSend_faultCode (loaded : s.txlen ≠ 0#4) : (startSend s).faultCode = s.faultCode := by
  rw [startSend_frame s loaded]

theorem startAwaitSingle_faultCode (t : Ticks) (sent : s.sent = true) :
    (startAwaitSingle t s).faultCode = s.faultCode := by
  cases queue : s.rxq with
  | cons c cs => rw [startAwaitSingle_queued s t c cs sent queue]; rfl
  | nil => rw [startAwaitSingle_empty s t sent queue]; split <;> rfl

theorem startAwaitAll_faultCode (t : Ticks) (sent : s.sent = true) :
    (startAwaitAll t s).faultCode = s.faultCode := by
  rw [startAwaitAll_sent s t sent]
  split <;> rfl

/-- A request with a frame where it is SEND, and a send to answer where it is a wait, raises no fault on an idle block
(R207, R208). -/
theorem requestOp_faultCode {w : ReqWord} {bs : List Byte} {i : Instr}
    (decoded : decodeInstr (.request w bs) = .ok i) (loaded : w.toNat % 16 = 4 → s.txlen ≠ 0#4)
    (sent : w.toNat % 16 = 5 ∨ w.toNat % 16 = 6 → s.sent = true) : (requestOp i s).faultCode = s.faultCode := by
  rcases decodeInstr_request_cases decoded with
    ⟨-, rfl⟩ | ⟨-, rfl⟩ | ⟨-, rfl⟩ | ⟨op, rfl⟩ | ⟨op, rfl⟩ | ⟨op, rfl⟩
  · exact buildFrame_faultCode s _
  · exact buildFrame_faultCode s _
  · exact decodeBytes_faultCode s bs
  · exact startSend_faultCode (loaded op)
  · exact startAwaitSingle_faultCode _ (sent (.inl op))
  · exact startAwaitAll_faultCode _ (sent (.inr op))

/-! ### Which step raises which fault (R205 to R208, R210) -/

section requests

variable {w : ReqWord} {bs : List Byte} (hp : s.pending = .request w bs :: xs) (running : s.faultCode = .noFault)
include hp running

/-- An unused OP, whatever the block is doing (R205). -/
theorem step_illegalOp (illegal : w.toNat % 16 = 0 ∨ 7 ≤ w.toNat % 16) :
    step s = .next (raiseFault .illegalOp (setPending xs s)) := by
  rw [← reqOp_toNat] at illegal
  rw [step_illegal s w bs xs _ hp (decodeInstr_op_illegal illegal), illegalRequest_running (setPending xs s) running]

/-- A legal OP while the block is busy (R206). -/
theorem step_overlap (busy : s.state ≠ .idle) (h1 : 1 ≤ w.toNat % 16) (h6 : w.toNat % 16 ≤ 6) :
    step s = .next (raiseFault .overlap (setPending xs s)) := by
  rw [step_eq_takeInput hp, takeInput_request_busy (s := setPending xs s) bs h1 h6 running busy]

/-- SEND of an idle block with no frame (R207). -/
theorem step_txEmpty (idle : s.state = .idle) (op : w.toNat % 16 = 4) (empty : s.txlen = 0#4) :
    step s = .next (raiseFault .txEmpty (setPending xs s)) := by
  rw [← reqOp_toNat] at op
  rw [step_request_idle idle running hp (decodeInstr_op_send op), requestOp, startSend_empty (setPending xs s) empty]

/-- A wait of an idle block with no send to answer (R208). -/
theorem step_awaitNoSend (idle : s.state = .idle) (op : w.toNat % 16 = 5 ∨ w.toNat % 16 = 6)
    (unsent : s.sent = false) : step s = .next (raiseFault .awaitNoSend (setPending xs s)) := by
  rw [← reqOp_toNat] at op
  rcases op with op | op
  · rw [step_request_idle idle running hp (decodeInstr_op_awaitSingle op), requestOp,
      startAwaitSingle_unsent (setPending xs s) _ unsent]
  · rw [step_request_idle idle running hp (decodeInstr_op_awaitAll op), requestOp,
      startAwaitAll_unsent (setPending xs s) _ unsent]

end requests

/-- Taking the input off `pending` is no change of `S`. -/
theorem SameButFault.of_setPending (same : SameButFault (setPending xs s) t) : SameButFault s t :=
  ⟨same.state, same.sent, same.txbuf, same.txlen, same.rxq, same.timer, same.tlimit, same.result⟩

/-- A step that is a fault entry takes the input and writes `FAULT_CODE` (R209). -/
theorem fault_of_step {k : FaultCode} (running : s.faultCode = .noFault)
    (hst : step s = .next (raiseFault k (setPending xs s))) :
    ∃ t, step s = .next t ∧ t.faultCode = k ∧ SameButFault s t ∧ t.pending = xs :=
  ⟨_, hst, raiseFault_code (setPending xs s) k running, (raiseFault_same _ k).of_setPending, raiseFault_pending _ k⟩

/-- Settles O33: an unused OP decodes to no instruction. -/
theorem illegalOpFaultsInAnyState : Obligations.IllegalOpFaultsInAnyState := by
  intro s w bs xs hp running illegal
  exact fault_of_step running (step_illegalOp hp running illegal)

/-- Settles O34: a legal OP decodes, and its operation does not run while busy. -/
theorem overlapFaultsWhileBusy : Obligations.OverlapFaultsWhileBusy := by
  intro s w bs xs hp running busy h1 h6
  exact fault_of_step running (step_overlap hp running busy h1 h6)

/-! ### The halt (R209, R211) -/

/-- A halted block ignores every input but reset (R144, R209). -/
theorem takeInput_halted (halted : s.faultCode ≠ .noFault) (notReset : x ≠ .reset) : takeInput x s = .next s := by
  cases x with
  | request w bs =>
    rcases takeRequestWord_cases w bs s with ⟨i, -, he⟩ | ⟨r, -, he⟩
    · rw [takeInput, he, takeRequest_halted s _ halted]
    · rw [takeInput, he, illegalRequest_halted s halted]
  | txDone => exact lineReport_halted txDone halted
  | txFail => exact lineReport_halted txFail halted
  | rxChunk c => rw [takeInput, takeChunk_eq, rxChunk_halted s c halted]
  | tick => rw [takeInput, tick_idle s (.inl halted)]
  | reset => exact absurd rfl notReset

theorem step_halted (hp : s.pending = x :: xs) (halted : s.faultCode ≠ .noFault) (notReset : x ≠ .reset) :
    step s = .next (setPending xs s) := by
  rw [step_eq_takeInput hp, takeInput_halted (s := setPending xs s) halted notReset]

/-- A halted block does nothing but take its inputs. -/
theorem run_halted (k : Nat) (halted : s.faultCode ≠ .noFault) (noReset : .reset ∉ s.pending) :
    Sys2Proof.core.run k s = .next (setPending (s.pending.drop k) s) := by
  induction k generalizing s with
  | zero => rfl
  | succ k ih =>
    cases hp : s.pending with
    | nil =>
      rw [run_succ k s s (waitsWithoutInput s hp), ih halted noReset, hp, List.drop_nil, List.drop_nil]
    | cons x xs =>
      rw [hp, List.mem_cons, not_or] at noReset
      rw [run_succ k s _ (step_halted hp halted (Ne.symm noReset.1)), ih (s := setPending xs s) halted noReset.2,
        setPending_pending, setPending_setPending, List.drop_succ_cons]

theorem sameBlock_setPending (xs : List Input) (s : State) : SameBlock s (setPending xs s) :=
  ⟨⟨rfl, rfl, rfl, rfl, rfl, rfl, rfl, rfl⟩, rfl⟩

/-- Settles O38: the run takes inputs off `pending`, which is no field of `S`. -/
theorem haltLastsUntilReset : Obligations.HaltLastsUntilReset := by
  intro k s halted noReset
  exact ⟨_, run_halted k halted noReset, sameBlock_setPending _ s⟩

/-! ### The order of the faults, and their entry (R209, R210) -/

/-- Settles O35: the checks in their order; where none applies, the operation runs and raises nothing. -/
theorem faultPriority : Obligations.FaultPriority := by
  intro s w bs xs hp op
  by_cases running : s.faultCode = .noFault
  case neg => exact ⟨_, step_halted hp running (by simp), by rw [if_pos running]; rfl⟩
  have code (k : FaultCode) : (raiseFault k (setPending xs s)).faultCode = k := raiseFault_code _ k running
  rw [if_neg (not_not.2 running)]
  split_ifs with illegal busy empty unsent
  · exact ⟨_, step_illegalOp hp running illegal, code _⟩
  · exact ⟨_, step_overlap hp running busy (by omega) (by omega), code _⟩
  · exact ⟨_, step_txEmpty hp running (not_not.1 busy) empty.1 empty.2, code _⟩
  · exact ⟨_, step_awaitNoSend hp running (not_not.1 busy) unsent.1 unsent.2, code _⟩
  · obtain ⟨i, decoded⟩ := decodeInstr_of_legal (w := w) bs (by omega) (by omega)
    refine ⟨_, step_request_idle (not_not.1 busy) running hp decoded, ?_⟩
    have loaded (hop : op = 4) : s.txlen ≠ 0#4 := fun hlen => empty ⟨hop, hlen⟩
    have sent (hop : op = 5 ∨ op = 6) : s.sent = true := by_contra fun hs => unsent ⟨hop, by simpa using hs⟩
    exact (requestOp_faultCode (s := setPending xs s) decoded loaded sent).trans running

/-- An input leaves a running block running, unless it is a request that raises a fault (R209). -/
theorem Effect.fault_cases (e : Effect s x t) (running : s.faultCode = .noFault) :
    t.faultCode = .noFault ∨ ∃ w bs k, x = .request w bs ∧ t = raiseFault k s := by
  cases e with
  | fault w bs k => exact .inr ⟨w, bs, k, rfl, rfl⟩
  | send w bs _ _ _ loaded => exact .inl ((startSend_faultCode loaded).trans running)
  | reset => exact .inl rfl
  | _ => exact .inl (by simp [running])

/-- Settles O36: the only effect that leaves a running block halted is the fault entry of a request. -/
theorem faultEntryAndHalt : Obligations.FaultEntryAndHalt := by
  intro s t x xs hp hst
  refine ⟨fun running halted => ?_, fun halted notReset => ?_⟩
  · rcases (effect_of_step hp hst).fault_cases running with still | ⟨w, bs, k, rfl, rfl⟩
    · exact absurd still halted
    · exact ⟨(raiseFault_same _ k).of_setPending, rfl⟩
  · rw [step_halted hp halted notReset] at hst
    cases hst
    rfl

/-- Settles O45: only a request can fail, and the operation of a correct one runs and raises nothing. -/
theorem correctUseNeverFails : Obligations.CorrectUseNeverFails := by
  intro s t x xs hp hst notFailed correct
  simp only [Failed, State.halted_eq_true, not_not] at notFailed ⊢
  rcases (effect_of_step hp hst).fault_cases notFailed with still | ⟨w, bs, -, rfl, -⟩
  · exact still
  · obtain ⟨h1, h6, idle, loaded, sent⟩ := correct _ (inputOp_request w bs)
    obtain ⟨i, decoded⟩ := decodeInstr_of_legal bs h1 h6
    rw [step_request_idle idle notFailed hp decoded] at hst
    cases hst
    exact (requestOp_faultCode (s := setPending xs s) decoded loaded sent).trans notFailed

/-! ### The transmission a fault or reset interrupts (R209, R230) -/

/-- What a cut adds to the bus: some first bytes of the transmission, where there is one. -/
theorem lineCut_bus_cases (s : State) :
    (s.line = [] → (lineCut s).bus = s.bus) ∧
      (s.line ≠ [] → ∃ b, b <+: s.line ∧ (lineCut s).bus = s.bus ++ [b]) := by
  refine ⟨fun quiet => by rw [lineCut_idle s quiet], fun busy => ?_⟩
  obtain ⟨n, -, hcut⟩ := lineCut_busy s busy
  exact ⟨s.line.take n, List.take_prefix n _, by rw [hcut]⟩

/-- Reset and fault entry both cut the line. -/
theorem Effect.cuts_line (e : Effect s x t) (h : x = .reset ∨ s.faultCode = .noFault ∧ t.faultCode ≠ .noFault) :
    t.line = [] ∧ t.bus = (lineCut s).bus := by
  rcases h with rfl | ⟨running, halted⟩
  · cases e with
    | ignoredByHalt _ notReset => exact absurd rfl notReset
    | reset => exact ⟨rfl, rfl⟩
  · rcases e.fault_cases running with still | ⟨w, bs, k, rfl, rfl⟩
    · exact absurd still halted
    · rw [raiseFault_eq s k running]
      exact ⟨lineCut_line s, rfl⟩

/-- Settles O37: the step cuts the line. -/
theorem interruptedTransmissionLeavesFirstBytes : Obligations.InterruptedTransmissionLeavesFirstBytes := by
  intro s t x xs hp hst h
  obtain ⟨hline, hbus⟩ := (effect_of_step hp hst).cuts_line h
  rw [hline, hbus]
  exact ⟨rfl, lineCut_bus_cases (setPending xs s)⟩

end Sys2Proof.Machine
end
